-- ==== Sys2Proof/Word.lean ====
section
/-! DEFINITION. The plain number types of the machine (spec/00_scope.md R5, R15). -/

namespace Sys2Proof

/-- A word: register, pc, address, CSR and instruction width (R5: XLEN is 32 bits). -/
abbrev Word := BitVec 32

/-- A byte, the smallest addressable unit of memory (R80). -/
abbrev Byte := BitVec 8

/-- A general register's index, a 5-bit field (R121). -/
abbrev RegIdx := BitVec 5

/-- A CSR index, 12 bits (R30). -/
abbrev CsrIdx := BitVec 12

end Sys2Proof
end

