-- ==== Sys2Proof/Syntax.lean ====
section
/-! DEFINITION. The instructions, one constructor per row of spec/opcode_table.json (spec/30_encoding.md R140), each
carrying every operand field of its shape (R122 to R128), the fields the hardware ignores included (R145), so that an
instruction determines its word. Immediates are the encoded fields, not yet extended (R129 to R133); a B or J immediate
carries its implicit bit 0. -/

namespace Sys2Proof

inductive Instr where
  -- upper immediate (U shape, R126): `imm` is bits 31:12 of the value
  | lui   (rd : RegIdx) (imm : BitVec 20)
  | auipc (rd : RegIdx) (imm : BitVec 20)
  -- jumps (R127, R123)
  | jal  (rd : RegIdx) (imm : BitVec 21)
  | jalr (rd rs1 : RegIdx) (imm : BitVec 12)
  -- branches (B shape, R125)
  | beq  (rs1 rs2 : RegIdx) (imm : BitVec 13)
  | bne  (rs1 rs2 : RegIdx) (imm : BitVec 13)
  | blt  (rs1 rs2 : RegIdx) (imm : BitVec 13)
  | bge  (rs1 rs2 : RegIdx) (imm : BitVec 13)
  | bltu (rs1 rs2 : RegIdx) (imm : BitVec 13)
  | bgeu (rs1 rs2 : RegIdx) (imm : BitVec 13)
  -- loads (I shape, R123)
  | lb  (rd rs1 : RegIdx) (imm : BitVec 12)
  | lh  (rd rs1 : RegIdx) (imm : BitVec 12)
  | lw  (rd rs1 : RegIdx) (imm : BitVec 12)
  | lbu (rd rs1 : RegIdx) (imm : BitVec 12)
  | lhu (rd rs1 : RegIdx) (imm : BitVec 12)
  -- stores (S shape, R124)
  | sb (rs1 rs2 : RegIdx) (imm : BitVec 12)
  | sh (rs1 rs2 : RegIdx) (imm : BitVec 12)
  | sw (rs1 rs2 : RegIdx) (imm : BitVec 12)
  -- register-immediate (I shape, R123)
  | addi  (rd rs1 : RegIdx) (imm : BitVec 12)
  | slti  (rd rs1 : RegIdx) (imm : BitVec 12)
  | sltiu (rd rs1 : RegIdx) (imm : BitVec 12)
  | xori  (rd rs1 : RegIdx) (imm : BitVec 12)
  | ori   (rd rs1 : RegIdx) (imm : BitVec 12)
  | andi  (rd rs1 : RegIdx) (imm : BitVec 12)
  -- shift-immediate (R134, R137)
  | slli (rd rs1 : RegIdx) (shamt : BitVec 5)
  | srli (rd rs1 : RegIdx) (shamt : BitVec 5)
  | srai (rd rs1 : RegIdx) (shamt : BitVec 5)
  -- register-register (R shape, R122)
  | add  (rd rs1 rs2 : RegIdx)
  | sub  (rd rs1 rs2 : RegIdx)
  | sll  (rd rs1 rs2 : RegIdx)
  | slt  (rd rs1 rs2 : RegIdx)
  | sltu (rd rs1 rs2 : RegIdx)
  | xor  (rd rs1 rs2 : RegIdx)
  | srl  (rd rs1 rs2 : RegIdx)
  | sra  (rd rs1 rs2 : RegIdx)
  | or   (rd rs1 rs2 : RegIdx)
  | and  (rd rs1 rs2 : RegIdx)
  -- FENCE: five fields the hardware ignores (R145, R232)
  | fence (rd rs1 : RegIdx) (fm pred succ : BitVec 4)
  -- environment and privileged (R142)
  | ecall
  | ebreak
  | sret
  | mret
  -- CSR access (R123, R134)
  | csrrw  (rd rs1 : RegIdx) (csr : CsrIdx)
  | csrrs  (rd rs1 : RegIdx) (csr : CsrIdx)
  | csrrc  (rd rs1 : RegIdx) (csr : CsrIdx)
  | csrrwi (rd : RegIdx) (uimm : BitVec 5) (csr : CsrIdx)
  | csrrsi (rd : RegIdx) (uimm : BitVec 5) (csr : CsrIdx)
  | csrrci (rd : RegIdx) (uimm : BitVec 5) (csr : CsrIdx)
  -- multiply and divide (R shape)
  | mul    (rd rs1 rs2 : RegIdx)
  | mulh   (rd rs1 rs2 : RegIdx)
  | mulhsu (rd rs1 rs2 : RegIdx)
  | mulhu  (rd rs1 rs2 : RegIdx)
  | div    (rd rs1 rs2 : RegIdx)
  | divu   (rd rs1 rs2 : RegIdx)
  | rem    (rd rs1 rs2 : RegIdx)
  | remu   (rd rs1 rs2 : RegIdx)
  -- atomics (Atomic shape, R128); LR.W's `rs2` is carried and ignored (R143)
  | lrW      (rd rs1 rs2 : RegIdx) (aq rl : Bool)
  | scW      (rd rs1 rs2 : RegIdx) (aq rl : Bool)
  | amoswapW (rd rs1 rs2 : RegIdx) (aq rl : Bool)
  | amoaddW  (rd rs1 rs2 : RegIdx) (aq rl : Bool)
  | amoxorW  (rd rs1 rs2 : RegIdx) (aq rl : Bool)
  | amoandW  (rd rs1 rs2 : RegIdx) (aq rl : Bool)
  | amoorW   (rd rs1 rs2 : RegIdx) (aq rl : Bool)
  | amominW  (rd rs1 rs2 : RegIdx) (aq rl : Bool)
  | amomaxW  (rd rs1 rs2 : RegIdx) (aq rl : Bool)
  | amominuW (rd rs1 rs2 : RegIdx) (aq rl : Bool)
  | amomaxuW (rd rs1 rs2 : RegIdx) (aq rl : Bool)
deriving DecidableEq, Repr

end Sys2Proof
end

