-- ==== Sys2Proof/WellFormed.lean ====
section
/-! DEFINITION. Which instructions have an encoding: every operand is already of its field's width, and what is left
to check is that a B or J immediate has its implicit bit 0 clear (spec/30_encoding.md R131, R133: "LSB implicitly 0",
"always even"). -/

namespace Sys2Proof

/-- A branch or jump offset is even (R131, R133). -/
def evenOffset {n : Nat} (imm : BitVec n) : Bool := !imm.getLsbD 0

/-- The instruction can be encoded. -/
def Instr.wellFormed : Instr → Bool
  | .lui _ _ => true
  | .auipc _ _ => true
  | .jal _ imm => evenOffset imm
  | .jalr _ _ _ => true
  | .beq _ _ imm => evenOffset imm
  | .bne _ _ imm => evenOffset imm
  | .blt _ _ imm => evenOffset imm
  | .bge _ _ imm => evenOffset imm
  | .bltu _ _ imm => evenOffset imm
  | .bgeu _ _ imm => evenOffset imm
  | .lb _ _ _ => true
  | .lh _ _ _ => true
  | .lw _ _ _ => true
  | .lbu _ _ _ => true
  | .lhu _ _ _ => true
  | .sb _ _ _ => true
  | .sh _ _ _ => true
  | .sw _ _ _ => true
  | .addi _ _ _ => true
  | .slti _ _ _ => true
  | .sltiu _ _ _ => true
  | .xori _ _ _ => true
  | .ori _ _ _ => true
  | .andi _ _ _ => true
  | .slli _ _ _ => true
  | .srli _ _ _ => true
  | .srai _ _ _ => true
  | .add _ _ _ => true
  | .sub _ _ _ => true
  | .sll _ _ _ => true
  | .slt _ _ _ => true
  | .sltu _ _ _ => true
  | .xor _ _ _ => true
  | .srl _ _ _ => true
  | .sra _ _ _ => true
  | .or _ _ _ => true
  | .and _ _ _ => true
  | .fence _ _ _ _ _ => true
  | .ecall => true
  | .ebreak => true
  | .sret => true
  | .mret => true
  | .csrrw _ _ _ => true
  | .csrrs _ _ _ => true
  | .csrrc _ _ _ => true
  | .csrrwi _ _ _ => true
  | .csrrsi _ _ _ => true
  | .csrrci _ _ _ => true
  | .mul _ _ _ => true
  | .mulh _ _ _ => true
  | .mulhsu _ _ _ => true
  | .mulhu _ _ _ => true
  | .div _ _ _ => true
  | .divu _ _ _ => true
  | .rem _ _ _ => true
  | .remu _ _ _ => true
  | .lrW _ _ _ _ _ => true
  | .scW _ _ _ _ _ => true
  | .amoswapW _ _ _ _ _ => true
  | .amoaddW _ _ _ _ _ => true
  | .amoxorW _ _ _ _ _ => true
  | .amoandW _ _ _ _ _ => true
  | .amoorW _ _ _ _ _ => true
  | .amominW _ _ _ _ _ => true
  | .amomaxW _ _ _ _ _ => true
  | .amominuW _ _ _ _ _ => true
  | .amomaxuW _ _ _ _ _ => true

end Sys2Proof
end

