-- ==== Sys2Proof/Decode.lean ====
section
/-! DEFINITION. The decoder (spec/30_encoding.md R135 to R145), total on any bytes and rejecting by name; the encoder,
from the same shapes (R122 to R134); the opcode table; and the byte-order helpers (spec/20_memory.md R90). Every bit
position and opcode number here is the spec's, which takes them from general knowledge of RISC-V (log entry 10). -/

namespace Sys2Proof

/-! ## Bytes and words (R90: the byte at the lowest address is bits 7:0) -/

/-- Byte `k` of a word, byte 0 the least significant. -/
def Word.byte (w : Word) (k : Nat) : Byte := w.extractLsb' (8 * k) 8

/-- The word whose bytes, lowest address first, are `b0 b1 b2 b3`: `{b3, b2, b1, b0}` (R86). -/
def wordOfBytes (b0 b1 b2 b3 : Byte) : Word := b3 ++ b2 ++ b1 ++ b0

/-- The halfword `{hi, lo}` (R92). -/
def halfOfBytes (lo hi : Byte) : BitVec 16 := hi ++ lo

/-- A word's four bytes as memory holds them. -/
def bytesOfWord (w : Word) : List Byte := [w.byte 0, w.byte 1, w.byte 2, w.byte 3]

/-! ## Fields (R121) -/

def fOpcode (w : Word) : BitVec 7  := w.extractLsb' 0 7
def fRd     (w : Word) : RegIdx    := w.extractLsb' 7 5
def fFunct3 (w : Word) : BitVec 3  := w.extractLsb' 12 3
def fRs1    (w : Word) : RegIdx    := w.extractLsb' 15 5
def fRs2    (w : Word) : RegIdx    := w.extractLsb' 20 5
def fFunct7 (w : Word) : BitVec 7  := w.extractLsb' 25 7
def fFunct5 (w : Word) : BitVec 5  := w.extractLsb' 27 5
def fAq     (w : Word) : Bool      := w.getLsbD 26
def fRl     (w : Word) : Bool      := w.getLsbD 25
/-- Bits 31:20: the CSR index, the SYSTEM selector (R121, R134). -/
def fCsr    (w : Word) : CsrIdx    := w.extractLsb' 20 12
/-- The I immediate's field (R129). -/
def fImmI   (w : Word) : BitVec 12 := w.extractLsb' 20 12
/-- The S immediate's field, `{w[31:25], w[11:7]}` (R130). -/
def fImmS   (w : Word) : BitVec 12 := w.extractLsb' 25 7 ++ w.extractLsb' 7 5
/-- The B immediate's field, `{w[31], w[7], w[30:25], w[11:8], 0}` (R131). -/
def fImmB   (w : Word) : BitVec 13 :=
  w.extractLsb' 31 1 ++ w.extractLsb' 7 1 ++ w.extractLsb' 25 6 ++ w.extractLsb' 8 4 ++ 0#1
/-- The U immediate's field, `w[31:12]` (R132). -/
def fImmU   (w : Word) : BitVec 20 := w.extractLsb' 12 20
/-- The J immediate's field, `{w[31], w[19:12], w[20], w[30:21], 0}` (R133). -/
def fImmJ   (w : Word) : BitVec 21 :=
  w.extractLsb' 31 1 ++ w.extractLsb' 12 8 ++ w.extractLsb' 20 1 ++ w.extractLsb' 21 10 ++ 0#1
/-- FENCE's `fm`, `pred`, `succ` (R145). -/
def fFm     (w : Word) : BitVec 4  := w.extractLsb' 28 4
def fPred   (w : Word) : BitVec 4  := w.extractLsb' 24 4
def fSucc   (w : Word) : BitVec 4  := w.extractLsb' 20 4

/-! ## The decoder -/

/-- Why a word, or a list of bytes, is "no decode" (R135, R141). -/
inductive Reject where
  | truncated      -- fewer than four bytes: no instruction word (R120)
  | unknownOpcode  -- bits 6:0 name no group (R136)
  | unknownFunct3  -- a funct3 the group does not have (R137, R139, R142, R143)
  | unknownFunct7  -- a funct7 the group does not have (R137, R138)
  | unknownFunct5  -- an atomic function code the hardware does not have (R143)
  | unknownSystem  -- a SYSTEM word with funct3 0 that is none of the four (R142)
deriving DecidableEq, Repr

/-- BRANCH by funct3 (R139). -/
def decodeBranch (w : Word) : Except Reject Instr :=
  if fFunct3 w = 0b000#3 then .ok (.beq (fRs1 w) (fRs2 w) (fImmB w))
  else if fFunct3 w = 0b001#3 then .ok (.bne (fRs1 w) (fRs2 w) (fImmB w))
  else if fFunct3 w = 0b100#3 then .ok (.blt (fRs1 w) (fRs2 w) (fImmB w))
  else if fFunct3 w = 0b101#3 then .ok (.bge (fRs1 w) (fRs2 w) (fImmB w))
  else if fFunct3 w = 0b110#3 then .ok (.bltu (fRs1 w) (fRs2 w) (fImmB w))
  else if fFunct3 w = 0b111#3 then .ok (.bgeu (fRs1 w) (fRs2 w) (fImmB w))
  else .error .unknownFunct3

/-- LOAD by funct3 (R139). -/
def decodeLoad (w : Word) : Except Reject Instr :=
  if fFunct3 w = 0b000#3 then .ok (.lb (fRd w) (fRs1 w) (fImmI w))
  else if fFunct3 w = 0b001#3 then .ok (.lh (fRd w) (fRs1 w) (fImmI w))
  else if fFunct3 w = 0b010#3 then .ok (.lw (fRd w) (fRs1 w) (fImmI w))
  else if fFunct3 w = 0b100#3 then .ok (.lbu (fRd w) (fRs1 w) (fImmI w))
  else if fFunct3 w = 0b101#3 then .ok (.lhu (fRd w) (fRs1 w) (fImmI w))
  else .error .unknownFunct3

/-- STORE by funct3 (R139). -/
def decodeStore (w : Word) : Except Reject Instr :=
  if fFunct3 w = 0b000#3 then .ok (.sb (fRs1 w) (fRs2 w) (fImmS w))
  else if fFunct3 w = 0b001#3 then .ok (.sh (fRs1 w) (fRs2 w) (fImmS w))
  else if fFunct3 w = 0b010#3 then .ok (.sw (fRs1 w) (fRs2 w) (fImmS w))
  else .error .unknownFunct3

/-- OP-IMM by funct3, the shifts by funct7 too (R137). -/
def decodeOpImm (w : Word) : Except Reject Instr :=
  if fFunct3 w = 0b000#3 then .ok (.addi (fRd w) (fRs1 w) (fImmI w))
  else if fFunct3 w = 0b010#3 then .ok (.slti (fRd w) (fRs1 w) (fImmI w))
  else if fFunct3 w = 0b011#3 then .ok (.sltiu (fRd w) (fRs1 w) (fImmI w))
  else if fFunct3 w = 0b100#3 then .ok (.xori (fRd w) (fRs1 w) (fImmI w))
  else if fFunct3 w = 0b110#3 then .ok (.ori (fRd w) (fRs1 w) (fImmI w))
  else if fFunct3 w = 0b111#3 then .ok (.andi (fRd w) (fRs1 w) (fImmI w))
  else if fFunct3 w = 0b001#3 then
    if fFunct7 w = 0x00#7 then .ok (.slli (fRd w) (fRs1 w) (fRs2 w)) else .error .unknownFunct7
  else
    if fFunct7 w = 0x00#7 then .ok (.srli (fRd w) (fRs1 w) (fRs2 w))
    else if fFunct7 w = 0x20#7 then .ok (.srai (fRd w) (fRs1 w) (fRs2 w))
    else .error .unknownFunct7

/-- OP with funct7 `0x00` (R138). -/
def decodeOpBase (w : Word) : Except Reject Instr :=
  if fFunct3 w = 0b000#3 then .ok (.add (fRd w) (fRs1 w) (fRs2 w))
  else if fFunct3 w = 0b001#3 then .ok (.sll (fRd w) (fRs1 w) (fRs2 w))
  else if fFunct3 w = 0b010#3 then .ok (.slt (fRd w) (fRs1 w) (fRs2 w))
  else if fFunct3 w = 0b011#3 then .ok (.sltu (fRd w) (fRs1 w) (fRs2 w))
  else if fFunct3 w = 0b100#3 then .ok (.xor (fRd w) (fRs1 w) (fRs2 w))
  else if fFunct3 w = 0b101#3 then .ok (.srl (fRd w) (fRs1 w) (fRs2 w))
  else if fFunct3 w = 0b110#3 then .ok (.or (fRd w) (fRs1 w) (fRs2 w))
  else .ok (.and (fRd w) (fRs1 w) (fRs2 w))

/-- OP with funct7 `0x20` (R138). -/
def decodeOpAlt (w : Word) : Except Reject Instr :=
  if fFunct3 w = 0b000#3 then .ok (.sub (fRd w) (fRs1 w) (fRs2 w))
  else if fFunct3 w = 0b101#3 then .ok (.sra (fRd w) (fRs1 w) (fRs2 w))
  else .error .unknownFunct3

/-- OP with funct7 `0x01` (R138). -/
def decodeOpMul (w : Word) : Except Reject Instr :=
  if fFunct3 w = 0b000#3 then .ok (.mul (fRd w) (fRs1 w) (fRs2 w))
  else if fFunct3 w = 0b001#3 then .ok (.mulh (fRd w) (fRs1 w) (fRs2 w))
  else if fFunct3 w = 0b010#3 then .ok (.mulhsu (fRd w) (fRs1 w) (fRs2 w))
  else if fFunct3 w = 0b011#3 then .ok (.mulhu (fRd w) (fRs1 w) (fRs2 w))
  else if fFunct3 w = 0b100#3 then .ok (.div (fRd w) (fRs1 w) (fRs2 w))
  else if fFunct3 w = 0b101#3 then .ok (.divu (fRd w) (fRs1 w) (fRs2 w))
  else if fFunct3 w = 0b110#3 then .ok (.rem (fRd w) (fRs1 w) (fRs2 w))
  else .ok (.remu (fRd w) (fRs1 w) (fRs2 w))

/-- OP by funct7, then funct3 (R138). -/
def decodeOp (w : Word) : Except Reject Instr :=
  if fFunct7 w = 0x00#7 then decodeOpBase w
  else if fFunct7 w = 0x20#7 then decodeOpAlt w
  else if fFunct7 w = 0x01#7 then decodeOpMul w
  else .error .unknownFunct7

/-- SYSTEM with funct3 0: the whole of `w[31:7]` is tested (R142, R145). -/
def decodeSystemZero (w : Word) : Except Reject Instr :=
  if fRs1 w ≠ 0#5 ∨ fRd w ≠ 0#5 then .error .unknownSystem
  else if fCsr w = 0x000#12 then .ok .ecall
  else if fCsr w = 0x001#12 then .ok .ebreak
  else if fCsr w = 0x102#12 then .ok .sret
  else if fCsr w = 0x302#12 then .ok .mret
  else .error .unknownSystem

/-- SYSTEM (R142). -/
def decodeSystem (w : Word) : Except Reject Instr :=
  if fFunct3 w = 0b000#3 then decodeSystemZero w
  else if fFunct3 w = 0b001#3 then .ok (.csrrw (fRd w) (fRs1 w) (fCsr w))
  else if fFunct3 w = 0b010#3 then .ok (.csrrs (fRd w) (fRs1 w) (fCsr w))
  else if fFunct3 w = 0b011#3 then .ok (.csrrc (fRd w) (fRs1 w) (fCsr w))
  else if fFunct3 w = 0b101#3 then .ok (.csrrwi (fRd w) (fRs1 w) (fCsr w))
  else if fFunct3 w = 0b110#3 then .ok (.csrrsi (fRd w) (fRs1 w) (fCsr w))
  else if fFunct3 w = 0b111#3 then .ok (.csrrci (fRd w) (fRs1 w) (fCsr w))
  else .error .unknownFunct3

/-- AMO by funct5, funct3 being `010` (R143). -/
def decodeAmo (w : Word) : Except Reject Instr :=
  if fFunct3 w ≠ 0b010#3 then .error .unknownFunct3
  else if fFunct5 w = 0b00010#5 then .ok (.lrW (fRd w) (fRs1 w) (fRs2 w) (fAq w) (fRl w))
  else if fFunct5 w = 0b00011#5 then .ok (.scW (fRd w) (fRs1 w) (fRs2 w) (fAq w) (fRl w))
  else if fFunct5 w = 0b00001#5 then .ok (.amoswapW (fRd w) (fRs1 w) (fRs2 w) (fAq w) (fRl w))
  else if fFunct5 w = 0b00000#5 then .ok (.amoaddW (fRd w) (fRs1 w) (fRs2 w) (fAq w) (fRl w))
  else if fFunct5 w = 0b00100#5 then .ok (.amoxorW (fRd w) (fRs1 w) (fRs2 w) (fAq w) (fRl w))
  else if fFunct5 w = 0b01100#5 then .ok (.amoandW (fRd w) (fRs1 w) (fRs2 w) (fAq w) (fRl w))
  else if fFunct5 w = 0b01000#5 then .ok (.amoorW (fRd w) (fRs1 w) (fRs2 w) (fAq w) (fRl w))
  else if fFunct5 w = 0b10000#5 then .ok (.amominW (fRd w) (fRs1 w) (fRs2 w) (fAq w) (fRl w))
  else if fFunct5 w = 0b10100#5 then .ok (.amomaxW (fRd w) (fRs1 w) (fRs2 w) (fAq w) (fRl w))
  else if fFunct5 w = 0b11000#5 then .ok (.amominuW (fRd w) (fRs1 w) (fRs2 w) (fAq w) (fRl w))
  else if fFunct5 w = 0b11100#5 then .ok (.amomaxuW (fRd w) (fRs1 w) (fRs2 w) (fAq w) (fRl w))
  else .error .unknownFunct5

/-- `Decode(w)` of R135: a pure function of the word, by the low 7 opcode bits (R136). -/
def decodeWord (w : Word) : Except Reject Instr :=
  if fOpcode w = 0x37#7 then .ok (.lui (fRd w) (fImmU w))
  else if fOpcode w = 0x17#7 then .ok (.auipc (fRd w) (fImmU w))
  else if fOpcode w = 0x6F#7 then .ok (.jal (fRd w) (fImmJ w))
  else if fOpcode w = 0x67#7 then
    if fFunct3 w = 0b000#3 then .ok (.jalr (fRd w) (fRs1 w) (fImmI w)) else .error .unknownFunct3
  else if fOpcode w = 0x63#7 then decodeBranch w
  else if fOpcode w = 0x03#7 then decodeLoad w
  else if fOpcode w = 0x23#7 then decodeStore w
  else if fOpcode w = 0x13#7 then decodeOpImm w
  else if fOpcode w = 0x33#7 then decodeOp w
  else if fOpcode w = 0x0F#7 then
    if fFunct3 w = 0b000#3 then .ok (.fence (fRd w) (fRs1 w) (fFm w) (fPred w) (fSucc w))
    else .error .unknownFunct3
  else if fOpcode w = 0x73#7 then decodeSystem w
  else if fOpcode w = 0x2F#7 then decodeAmo w
  else .error .unknownOpcode

/-- The decoder on bytes: one little-endian word (R120, R90), and the bytes after it. -/
def decode : List Byte → Except Reject (Instr × List Byte)
  | b0 :: b1 :: b2 :: b3 :: rest =>
    match decodeWord (wordOfBytes b0 b1 b2 b3) with
    | .ok i => .ok (i, rest)
    | .error e => .error e
  | _ => .error .truncated

/-- The instruction the decoder reads from an instruction of `nbits` bits whose value is `w`, its bytes laid out
as memory holds them. -/
def decodeTableWord (nbits w : Nat) : Option Instr :=
  match decode (bytesOfWord (BitVec.ofNat 32 (w % 2 ^ nbits))) with
  | .ok (i, _) => some i
  | .error _ => none

/-! ## The encoder -/

/-- A word from the six fields of the R shape (R122); every other shape fills the same bit positions (R121). -/
def pack (funct7 : BitVec 7) (rs2 rs1 : BitVec 5) (funct3 : BitVec 3) (rd : BitVec 5) (opcode : BitVec 7) : Word :=
  funct7 ++ rs2 ++ rs1 ++ funct3 ++ rd ++ opcode

/-- I shape (R123). -/
def packI (imm : BitVec 12) (rs1 : RegIdx) (funct3 : BitVec 3) (rd : RegIdx) (opcode : BitVec 7) : Word :=
  imm ++ rs1 ++ funct3 ++ rd ++ opcode

/-- S shape (R124), the STORE opcode. -/
def packS (imm : BitVec 12) (rs2 rs1 : RegIdx) (funct3 : BitVec 3) : Word :=
  imm.extractLsb' 5 7 ++ rs2 ++ rs1 ++ funct3 ++ imm.extractLsb' 0 5 ++ 0x23#7

/-- B shape (R125), the BRANCH opcode. -/
def packB (imm : BitVec 13) (rs2 rs1 : RegIdx) (funct3 : BitVec 3) : Word :=
  imm.extractLsb' 12 1 ++ imm.extractLsb' 5 6 ++ rs2 ++ rs1 ++ funct3 ++ imm.extractLsb' 1 4 ++ imm.extractLsb' 11 1
    ++ 0x63#7

/-- U shape (R126). -/
def packU (imm : BitVec 20) (rd : RegIdx) (opcode : BitVec 7) : Word := imm ++ rd ++ opcode

/-- J shape (R127), the JAL opcode. -/
def packJ (imm : BitVec 21) (rd : RegIdx) : Word :=
  imm.extractLsb' 20 1 ++ imm.extractLsb' 1 10 ++ imm.extractLsb' 11 1 ++ imm.extractLsb' 12 8 ++ rd ++ 0x6F#7

/-- FENCE's fields in the I shape (R145, R232). -/
def packFence (fm pred succ : BitVec 4) (rs1 rd : RegIdx) : Word :=
  fm ++ pred ++ succ ++ rs1 ++ 0b000#3 ++ rd ++ 0x0F#7

/-- Atomic shape (R128), the AMO opcode and funct3. -/
def packAmo (funct5 : BitVec 5) (aq rl : Bool) (rs2 rs1 rd : RegIdx) : Word :=
  funct5 ++ BitVec.ofBool aq ++ BitVec.ofBool rl ++ rs2 ++ rs1 ++ 0b010#3 ++ rd ++ 0x2F#7

/-- The word of an instruction (R136 to R143). -/
def encode : Instr → Word
  | .lui rd imm => packU imm rd 0x37#7
  | .auipc rd imm => packU imm rd 0x17#7
  | .jal rd imm => packJ imm rd
  | .jalr rd rs1 imm => packI imm rs1 0b000#3 rd 0x67#7
  | .beq rs1 rs2 imm => packB imm rs2 rs1 0b000#3
  | .bne rs1 rs2 imm => packB imm rs2 rs1 0b001#3
  | .blt rs1 rs2 imm => packB imm rs2 rs1 0b100#3
  | .bge rs1 rs2 imm => packB imm rs2 rs1 0b101#3
  | .bltu rs1 rs2 imm => packB imm rs2 rs1 0b110#3
  | .bgeu rs1 rs2 imm => packB imm rs2 rs1 0b111#3
  | .lb rd rs1 imm => packI imm rs1 0b000#3 rd 0x03#7
  | .lh rd rs1 imm => packI imm rs1 0b001#3 rd 0x03#7
  | .lw rd rs1 imm => packI imm rs1 0b010#3 rd 0x03#7
  | .lbu rd rs1 imm => packI imm rs1 0b100#3 rd 0x03#7
  | .lhu rd rs1 imm => packI imm rs1 0b101#3 rd 0x03#7
  | .sb rs1 rs2 imm => packS imm rs2 rs1 0b000#3
  | .sh rs1 rs2 imm => packS imm rs2 rs1 0b001#3
  | .sw rs1 rs2 imm => packS imm rs2 rs1 0b010#3
  | .addi rd rs1 imm => packI imm rs1 0b000#3 rd 0x13#7
  | .slti rd rs1 imm => packI imm rs1 0b010#3 rd 0x13#7
  | .sltiu rd rs1 imm => packI imm rs1 0b011#3 rd 0x13#7
  | .xori rd rs1 imm => packI imm rs1 0b100#3 rd 0x13#7
  | .ori rd rs1 imm => packI imm rs1 0b110#3 rd 0x13#7
  | .andi rd rs1 imm => packI imm rs1 0b111#3 rd 0x13#7
  | .slli rd rs1 shamt => pack 0x00#7 shamt rs1 0b001#3 rd 0x13#7
  | .srli rd rs1 shamt => pack 0x00#7 shamt rs1 0b101#3 rd 0x13#7
  | .srai rd rs1 shamt => pack 0x20#7 shamt rs1 0b101#3 rd 0x13#7
  | .add rd rs1 rs2 => pack 0x00#7 rs2 rs1 0b000#3 rd 0x33#7
  | .sub rd rs1 rs2 => pack 0x20#7 rs2 rs1 0b000#3 rd 0x33#7
  | .sll rd rs1 rs2 => pack 0x00#7 rs2 rs1 0b001#3 rd 0x33#7
  | .slt rd rs1 rs2 => pack 0x00#7 rs2 rs1 0b010#3 rd 0x33#7
  | .sltu rd rs1 rs2 => pack 0x00#7 rs2 rs1 0b011#3 rd 0x33#7
  | .xor rd rs1 rs2 => pack 0x00#7 rs2 rs1 0b100#3 rd 0x33#7
  | .srl rd rs1 rs2 => pack 0x00#7 rs2 rs1 0b101#3 rd 0x33#7
  | .sra rd rs1 rs2 => pack 0x20#7 rs2 rs1 0b101#3 rd 0x33#7
  | .or rd rs1 rs2 => pack 0x00#7 rs2 rs1 0b110#3 rd 0x33#7
  | .and rd rs1 rs2 => pack 0x00#7 rs2 rs1 0b111#3 rd 0x33#7
  | .fence rd rs1 fm pred succ => packFence fm pred succ rs1 rd
  | .ecall => packI 0x000#12 0#5 0b000#3 0#5 0x73#7
  | .ebreak => packI 0x001#12 0#5 0b000#3 0#5 0x73#7
  | .sret => packI 0x102#12 0#5 0b000#3 0#5 0x73#7
  | .mret => packI 0x302#12 0#5 0b000#3 0#5 0x73#7
  | .csrrw rd rs1 csr => packI csr rs1 0b001#3 rd 0x73#7
  | .csrrs rd rs1 csr => packI csr rs1 0b010#3 rd 0x73#7
  | .csrrc rd rs1 csr => packI csr rs1 0b011#3 rd 0x73#7
  | .csrrwi rd uimm csr => packI csr uimm 0b101#3 rd 0x73#7
  | .csrrsi rd uimm csr => packI csr uimm 0b110#3 rd 0x73#7
  | .csrrci rd uimm csr => packI csr uimm 0b111#3 rd 0x73#7
  | .mul rd rs1 rs2 => pack 0x01#7 rs2 rs1 0b000#3 rd 0x33#7
  | .mulh rd rs1 rs2 => pack 0x01#7 rs2 rs1 0b001#3 rd 0x33#7
  | .mulhsu rd rs1 rs2 => pack 0x01#7 rs2 rs1 0b010#3 rd 0x33#7
  | .mulhu rd rs1 rs2 => pack 0x01#7 rs2 rs1 0b011#3 rd 0x33#7
  | .div rd rs1 rs2 => pack 0x01#7 rs2 rs1 0b100#3 rd 0x33#7
  | .divu rd rs1 rs2 => pack 0x01#7 rs2 rs1 0b101#3 rd 0x33#7
  | .rem rd rs1 rs2 => pack 0x01#7 rs2 rs1 0b110#3 rd 0x33#7
  | .remu rd rs1 rs2 => pack 0x01#7 rs2 rs1 0b111#3 rd 0x33#7
  | .lrW rd rs1 rs2 aq rl => packAmo 0b00010#5 aq rl rs2 rs1 rd
  | .scW rd rs1 rs2 aq rl => packAmo 0b00011#5 aq rl rs2 rs1 rd
  | .amoswapW rd rs1 rs2 aq rl => packAmo 0b00001#5 aq rl rs2 rs1 rd
  | .amoaddW rd rs1 rs2 aq rl => packAmo 0b00000#5 aq rl rs2 rs1 rd
  | .amoxorW rd rs1 rs2 aq rl => packAmo 0b00100#5 aq rl rs2 rs1 rd
  | .amoandW rd rs1 rs2 aq rl => packAmo 0b01100#5 aq rl rs2 rs1 rd
  | .amoorW rd rs1 rs2 aq rl => packAmo 0b01000#5 aq rl rs2 rs1 rd
  | .amominW rd rs1 rs2 aq rl => packAmo 0b10000#5 aq rl rs2 rs1 rd
  | .amomaxW rd rs1 rs2 aq rl => packAmo 0b10100#5 aq rl rs2 rs1 rd
  | .amominuW rd rs1 rs2 aq rl => packAmo 0b11000#5 aq rl rs2 rs1 rd
  | .amomaxuW rd rs1 rs2 aq rl => packAmo 0b11100#5 aq rl rs2 rs1 rd

/-! ## The opcode table (spec/opcode_table.json) -/

/-- One row: a word is the row's instruction when `w & mask = pattern`. -/
structure OpcodeRow where
  mnemonic : String
  mask     : Word
  pattern  : Word
deriving DecidableEq, Repr

def OpcodeRow.covers (r : OpcodeRow) (w : Word) : Bool := w &&& r.mask == r.pattern

/-- A row from the table's three columns. -/
def row (mnemonic : String) (mask pattern : Nat) : OpcodeRow :=
  ⟨mnemonic, BitVec.ofNat 32 mask, BitVec.ofNat 32 pattern⟩

/-- The 67 rows, in the table's order, each with its "mask" and "match". -/
def opcodeTable : List OpcodeRow :=
  [row "LUI" 0x0000007f 0x00000037,
   row "AUIPC" 0x0000007f 0x00000017,
   row "JAL" 0x0000007f 0x0000006f,
   row "JALR" 0x0000707f 0x00000067,
   row "BEQ" 0x0000707f 0x00000063,
   row "BNE" 0x0000707f 0x00001063,
   row "BLT" 0x0000707f 0x00004063,
   row "BGE" 0x0000707f 0x00005063,
   row "BLTU" 0x0000707f 0x00006063,
   row "BGEU" 0x0000707f 0x00007063,
   row "LB" 0x0000707f 0x00000003,
   row "LH" 0x0000707f 0x00001003] ++
  [row "LW" 0x0000707f 0x00002003,
   row "LBU" 0x0000707f 0x00004003,
   row "LHU" 0x0000707f 0x00005003,
   row "SB" 0x0000707f 0x00000023,
   row "SH" 0x0000707f 0x00001023,
   row "SW" 0x0000707f 0x00002023,
   row "ADDI" 0x0000707f 0x00000013,
   row "SLTI" 0x0000707f 0x00002013,
   row "SLTIU" 0x0000707f 0x00003013,
   row "XORI" 0x0000707f 0x00004013,
   row "ORI" 0x0000707f 0x00006013,
   row "ANDI" 0x0000707f 0x00007013] ++
  [row "SLLI" 0xfe00707f 0x00001013,
   row "SRLI" 0xfe00707f 0x00005013,
   row "SRAI" 0xfe00707f 0x40005013,
   row "ADD" 0xfe00707f 0x00000033,
   row "SUB" 0xfe00707f 0x40000033,
   row "SLL" 0xfe00707f 0x00001033,
   row "SLT" 0xfe00707f 0x00002033,
   row "SLTU" 0xfe00707f 0x00003033,
   row "XOR" 0xfe00707f 0x00004033,
   row "SRL" 0xfe00707f 0x00005033,
   row "SRA" 0xfe00707f 0x40005033,
   row "OR" 0xfe00707f 0x00006033] ++
  [row "AND" 0xfe00707f 0x00007033,
   row "FENCE" 0x0000707f 0x0000000f,
   row "ECALL" 0xffffffff 0x00000073,
   row "EBREAK" 0xffffffff 0x00100073,
   row "SRET" 0xffffffff 0x10200073,
   row "MRET" 0xffffffff 0x30200073,
   row "CSRRW" 0x0000707f 0x00001073,
   row "CSRRS" 0x0000707f 0x00002073,
   row "CSRRC" 0x0000707f 0x00003073,
   row "CSRRWI" 0x0000707f 0x00005073,
   row "CSRRSI" 0x0000707f 0x00006073,
   row "CSRRCI" 0x0000707f 0x00007073] ++
  [row "MUL" 0xfe00707f 0x02000033,
   row "MULH" 0xfe00707f 0x02001033,
   row "MULHSU" 0xfe00707f 0x02002033,
   row "MULHU" 0xfe00707f 0x02003033,
   row "DIV" 0xfe00707f 0x02004033,
   row "DIVU" 0xfe00707f 0x02005033,
   row "REM" 0xfe00707f 0x02006033,
   row "REMU" 0xfe00707f 0x02007033,
   row "LR.W" 0xf800707f 0x1000202f,
   row "SC.W" 0xf800707f 0x1800202f,
   row "AMOSWAP.W" 0xf800707f 0x0800202f,
   row "AMOADD.W" 0xf800707f 0x0000202f] ++
  [row "AMOXOR.W" 0xf800707f 0x2000202f,
   row "AMOAND.W" 0xf800707f 0x6000202f,
   row "AMOOR.W" 0xf800707f 0x4000202f,
   row "AMOMIN.W" 0xf800707f 0x8000202f,
   row "AMOMAX.W" 0xf800707f 0xa000202f,
   row "AMOMINU.W" 0xf800707f 0xc000202f,
   row "AMOMAXU.W" 0xf800707f 0xe000202f]

/-- The row an instruction belongs to, by the table's mnemonic. -/
def Instr.mnemonic : Instr → String
  | .lui _ _ => "LUI"
  | .auipc _ _ => "AUIPC"
  | .jal _ _ => "JAL"
  | .jalr _ _ _ => "JALR"
  | .beq _ _ _ => "BEQ"
  | .bne _ _ _ => "BNE"
  | .blt _ _ _ => "BLT"
  | .bge _ _ _ => "BGE"
  | .bltu _ _ _ => "BLTU"
  | .bgeu _ _ _ => "BGEU"
  | .lb _ _ _ => "LB"
  | .lh _ _ _ => "LH"
  | .lw _ _ _ => "LW"
  | .lbu _ _ _ => "LBU"
  | .lhu _ _ _ => "LHU"
  | .sb _ _ _ => "SB"
  | .sh _ _ _ => "SH"
  | .sw _ _ _ => "SW"
  | .addi _ _ _ => "ADDI"
  | .slti _ _ _ => "SLTI"
  | .sltiu _ _ _ => "SLTIU"
  | .xori _ _ _ => "XORI"
  | .ori _ _ _ => "ORI"
  | .andi _ _ _ => "ANDI"
  | .slli _ _ _ => "SLLI"
  | .srli _ _ _ => "SRLI"
  | .srai _ _ _ => "SRAI"
  | .add _ _ _ => "ADD"
  | .sub _ _ _ => "SUB"
  | .sll _ _ _ => "SLL"
  | .slt _ _ _ => "SLT"
  | .sltu _ _ _ => "SLTU"
  | .xor _ _ _ => "XOR"
  | .srl _ _ _ => "SRL"
  | .sra _ _ _ => "SRA"
  | .or _ _ _ => "OR"
  | .and _ _ _ => "AND"
  | .fence _ _ _ _ _ => "FENCE"
  | .ecall => "ECALL"
  | .ebreak => "EBREAK"
  | .sret => "SRET"
  | .mret => "MRET"
  | .csrrw _ _ _ => "CSRRW"
  | .csrrs _ _ _ => "CSRRS"
  | .csrrc _ _ _ => "CSRRC"
  | .csrrwi _ _ _ => "CSRRWI"
  | .csrrsi _ _ _ => "CSRRSI"
  | .csrrci _ _ _ => "CSRRCI"
  | .mul _ _ _ => "MUL"
  | .mulh _ _ _ => "MULH"
  | .mulhsu _ _ _ => "MULHSU"
  | .mulhu _ _ _ => "MULHU"
  | .div _ _ _ => "DIV"
  | .divu _ _ _ => "DIVU"
  | .rem _ _ _ => "REM"
  | .remu _ _ _ => "REMU"
  | .lrW _ _ _ _ _ => "LR.W"
  | .scW _ _ _ _ _ => "SC.W"
  | .amoswapW _ _ _ _ _ => "AMOSWAP.W"
  | .amoaddW _ _ _ _ _ => "AMOADD.W"
  | .amoxorW _ _ _ _ _ => "AMOXOR.W"
  | .amoandW _ _ _ _ _ => "AMOAND.W"
  | .amoorW _ _ _ _ _ => "AMOOR.W"
  | .amominW _ _ _ _ _ => "AMOMIN.W"
  | .amomaxW _ _ _ _ _ => "AMOMAX.W"
  | .amominuW _ _ _ _ _ => "AMOMINU.W"
  | .amomaxuW _ _ _ _ _ => "AMOMAXU.W"

end Sys2Proof
end

