-- ==== Sys2Proof/Machine/Cells.lean ====
section
/-! DEFINITION. Sparse contents: a list of (key, value) pairs with a value `d` that every unlisted key holds. Memory and
the CSR bank are held so. The canonical form is: keys strictly rising, no entry equal to `d`. A write keeps it, and
reading back what was written needs no canonical form. -/

namespace Sys2Proof.Machine

variable {α : Type}

/-- The value at a key. -/
def Cells.read (d : α) : List (Nat × α) → Nat → α
  | [], _ => d
  | (k, v) :: t, a => if a = k then v else Cells.read d t a

/-- Every entry of key `a` taken out. -/
def Cells.erase : List (Nat × α) → Nat → List (Nat × α)
  | [], _ => []
  | (k, v) :: t, a => if a = k then Cells.erase t a else (k, v) :: Cells.erase t a

/-- An entry put before the first greater key. -/
def Cells.insert : List (Nat × α) → Nat → α → List (Nat × α)
  | [], a, x => [(a, x)]
  | (k, v) :: t, a, x => if a < k then (a, x) :: (k, v) :: t else (k, v) :: Cells.insert t a x

/-- The contents with `x` at key `a`; writing `d` takes the entry out. -/
def Cells.write [DecidableEq α] (d : α) (l : List (Nat × α)) (a : Nat) (x : α) : List (Nat × α) :=
  if x = d then Cells.erase l a else Cells.insert (Cells.erase l a) a x

/-- The canonical form. -/
def Cells.canonical [DecidableEq α] (d : α) : List (Nat × α) → Bool
  | [] => true
  | (k, v) :: t => decide (v ≠ d) && t.all (fun c => decide (k < c.1)) && Cells.canonical d t

end Sys2Proof.Machine
end

