-- ==== Sys2Proof/Config.lean ====
section
/-! DEFINITION. What the implementation fixes (spec/00_scope.md R5), the open parameters of R6 that instructions can
see, and the one free value of the spec, the UART device's answer. -/

namespace Sys2Proof

/-- DRAM's first byte and size (R5, R81). -/
def Config.dramBase : Nat := 0x80000000
def Config.dramSize : Nat := 0x00800000

/-- ROM's first byte and size (R5, R81). -/
def Config.romBase : Nat := 0x00001000
def Config.romSize : Nat := 0x00001000

/-- The UART window's first byte and size (R5, R81). -/
def Config.uartBase : Nat := 0x10000000
def Config.uartSize : Nat := 0x00000008

/-- HART_ID and NUM_HARTS (R6, R353): one hart is driven. -/
def Config.hartId : Nat := 0
def Config.numHarts : Nat := 1

/-- The open parameters SSTATUS_MASK, MIP_MASK and MIE_MASK (R6, R42, R43). They stand in `State` as plain data that
no step changes, so a statement about every state holds for every value of them (log entry 3). -/
structure Params where
  sstatusMask : Word
  mipMask     : Word
  mieMask     : Word
deriving DecidableEq, Repr

/-- DEVICE_READ (R6, R88): the UART device's answer to its `n`-th byte read, at address `a`. A FREE VALUE: nothing
constrains it (log entry 5). -/
opaque Config.deviceRead (n : Nat) (a : Word) : Byte

end Sys2Proof
end

