-- ==== Sys2Proof/Machine/Defaults.lean ====
section
/-! DEFINITION. The values the spec recommends for its open parameters (spec/00_scope.md R6). They stand in the state
after reset only; no statement about an instruction rests on them (log entries 1 and 3). -/

namespace Sys2Proof.Machine

/-- RESET_PC's recommended default (R6, R70, R372; DESIGN CHOICE, log entry 1; UNSAFE). -/
def defaultResetPc : Word := 0x80000000#32

/-- The recommended SSTATUS_MASK, MIP_MASK and MIE_MASK (R6, R42, R43; DESIGN CHOICE, log entry 3; UNSAFE). -/
def defaultParams : Params := ⟨0x800DE762#32, 0x00000AAA#32, 0x00000AAA#32⟩

end Sys2Proof.Machine
end

