-- ==== Sys2Proof/Machine/State.lean ====
section
/-! DEFINITION. The machine's state as plain data (spec/10_state.md, spec/20_memory.md), its exceptions, and the ways a
step can stop. -/

namespace Sys2Proof.Machine

/-- The privilege level (R28): User 0, Supervisor 1, Machine 3. -/
inductive Priv where
  | user
  | supervisor
  | machine
deriving DecidableEq, Repr

/-- Memory contents: the bytes of DRAM and ROM that differ from what an unlisted address reads as, addresses strictly
rising (R81, R83). -/
abbrev Memory := List Host.Cell

/-- The CSR bank's contents: the indices whose word is not 0, strictly rising (R30). -/
abbrev CsrBank := List (Nat × Word)

/-- What the UART device has seen (R88): a byte read, and an output event. -/
inductive DeviceEvent where
  | read  (a : Word)
  | write (a : Word) (b : Byte)
deriving DecidableEq, Repr

/-- The exception set (R320). An illegal instruction carries the offending word where the spec says which it is: the
fetched word of a failed decode (R10, R334). For a CSR or MRET failure the spec does not say (U5) and it reaches no
state, so there is none (log entry 13). The last six are never raised (R321). -/
inductive Exception where
  | instructionAddressMisaligned
  | instructionAccessFault
  | illegalInstruction (word : Option Word)
  | breakpoint
  | loadAddressMisaligned
  | loadAccessFault
  | storeAmoAddressMisaligned
  | storeAmoAccessFault
  | environmentCallFromUMode
  | environmentCallFromSMode
  | environmentCallFromMMode
  | instructionPageFault
  | loadPageFault
  | storeAmoPageFault
  | doubleTrap
  | softwareCheck
  | hardwareError
deriving DecidableEq, Repr

/-- Reasons for the machine to stop: none. Every fault of this hardware is an exception that the trap engine takes, and
"nothing inside the core stops the cycle" (R13, R326; log entry 12). -/
inductive Fault
deriving DecidableEq, Repr

/-- Why an instruction is given no next state. -/
inductive Refusal where
  /-- Raised by `exec` for an instruction with no meaning yet. SAFE: nothing can be proved of it. -/
  | notModelled (mnemonic : String)
  /-- Raised by MRET in Machine mode when `mstatus.MPP` is 2, which names no privilege level; the spec leaves the result
  undefined and tells a model to refuse (R312, U3, D20; log entry 7). SAFE: no next state is claimed. -/
  | mretReservedMpp
deriving DecidableEq, Repr

/-- The whole state (R20 to R61, R81, R88). The last two fields are the model's own: the oracle's draw count and the
open parameters. -/
structure State where
  /-- The 32 general registers; slot 0 is never read (R20, R21). -/
  regs         : Vector Word 32
  /-- The program counter (R25). -/
  pc           : Word
  /-- The privilege level (R28). -/
  priv         : Priv
  /-- The 4096 CSR words (R30), `mstatus` and the retire counter among them. -/
  csr          : CsrBank
  /-- The hidden flag that suppresses one step of the retire counter (R56). -/
  justLoaded   : Bool
  /-- `reservation[HART_ID]` (R60). -/
  reservation  : Option Word
  /-- DRAM and ROM bytes (R81, R83). -/
  mem          : Memory
  /-- What the UART device has seen, oldest first (R88, R326). -/
  deviceEvents : List DeviceEvent
  /-- How many answers the device has given (R88; log entry 5). -/
  deviceDraws  : Nat
  /-- The open parameters (R6; log entry 3). -/
  params       : Params
deriving DecidableEq, Repr

/-- What a handler does: it completes, with a value; it raises an exception; or it is refused. The state beside an
exception is what the handler had already changed (R326). -/
inductive Result (α : Type) where
  | ok     (value : α) (s : State)
  | raise  (e : Exception) (s : State)
  | refuse (r : Refusal)
deriving DecidableEq, Repr

/-- The state after reset for a RESET_PC, an INIT_MEM image and mask parameters (R70, R370): Machine mode, every
register and CSR word 0, no reservation, the device untouched (log entry 2). -/
def State.resetWith (resetPc : Word) (image : Memory) (params : Params) : State :=
  { regs := Vector.replicate 32 0#32, pc := resetPc, priv := .machine, csr := [], justLoaded := false,
    reservation := none, mem := image, deviceEvents := [], deviceDraws := 0, params := params }

/-- The state after reset with the recommended parameters and no image loaded (R70). -/
def State.reset : State := State.resetWith defaultResetPc [] defaultParams

end Sys2Proof.Machine
end

