-- ==== Sys2Proof/Machine/Flags.lean ====
section
/-! DEFINITION. Status bits. The hardware has no condition codes (spec/10_state.md R62); its one status word is
`mstatus`, a packed bitfield view (R40, R41). Comparison results are the words 0 and 1 (R165, R176). -/

namespace Sys2Proof.Machine

/-- The fields of `mstatus`, R40's table row by row. -/
inductive MstatusField where
  | bit0 | sie | bit2 | mie | bit4 | spie | ube | mpie | spp | vs | mpp | fs | xs | mprv | sum | mxr | tvm | tw | tsr
  | reserved | sd
deriving DecidableEq, Repr

/-- A field's lowest bit (R40; PRESUMED by the spec, log entry 10). -/
def MstatusField.lo : MstatusField → Nat
  | .bit0 => 0 | .sie => 1 | .bit2 => 2 | .mie => 3 | .bit4 => 4 | .spie => 5 | .ube => 6 | .mpie => 7 | .spp => 8
  | .vs => 9 | .mpp => 11 | .fs => 13 | .xs => 15 | .mprv => 17 | .sum => 18 | .mxr => 19 | .tvm => 20 | .tw => 21
  | .tsr => 22 | .reserved => 23 | .sd => 31

/-- A field's width in bits (R40). -/
@[reducible] def MstatusField.width : MstatusField → Nat
  | .vs | .mpp | .fs | .xs => 2
  | .reserved => 8
  | .bit0 | .sie | .bit2 | .mie | .bit4 | .spie | .ube | .mpie | .spp | .mprv | .sum | .mxr | .tvm | .tw | .tsr | .sd => 1

/-- The `n` bits of a word from bit `lo` up. -/
def getField (w : Word) (lo n : Nat) : BitVec n := w.extractLsb' lo n

/-- A word with the `n` bits from bit `lo` up replaced, the others kept (R41: "unaffected fields unchanged"). -/
def setField {n : Nat} (w : Word) (lo : Nat) (v : BitVec n) : Word :=
  (w &&& ~~~((BitVec.allOnes n).setWidth 32 <<< lo)) ||| (v.setWidth 32 <<< lo)

/-- A field of an `mstatus` word, read and written. -/
def MstatusField.get (f : MstatusField) (m : Word) : BitVec f.width := getField m f.lo f.width
def MstatusField.set (f : MstatusField) (m : Word) (v : BitVec f.width) : Word := setField m f.lo v

/-- MPP as the two bits it is (R40). -/
def getMpp (m : Word) : BitVec 2 := MstatusField.get .mpp m

/-- The word 1 or 0 of a comparison (R165, R166, R176, R177). -/
def wordOfBool (b : Bool) : Word := if b then 1#32 else 0#32

/-- A privilege level as its two bits (R28). -/
def Priv.bits : Priv → BitVec 2
  | .user => 0#2
  | .supervisor => 1#2
  | .machine => 3#2

/-- A privilege level as the number it is compared as (R28, R31). -/
def Priv.level (p : Priv) : Nat := p.bits.toNat

/-- The level that two bits name; 2 names none (R28, R312). -/
def Priv.ofBits (b : BitVec 2) : Option Priv :=
  if b = 0#2 then some .user else if b = 1#2 then some .supervisor else if b = 3#2 then some .machine else none

end Sys2Proof.Machine
end

