-- ==== Sys2Proof/Machine/Operands.lean ====
section
/-! DEFINITION. Operand forms: immediates as the 32-bit values the handlers receive (spec/30_encoding.md R129 to R134),
effective addresses, shift amounts, the extensions of loaded data, and the functions that more than one family names. -/

namespace Sys2Proof.Machine

/-- The I and S immediates, sign-extended to 32 bits (R129, R130). -/
def immI (imm : BitVec 12) : Word := imm.signExtend 32
def immS (imm : BitVec 12) : Word := imm.signExtend 32

/-- The B immediate, sign-extended from its 13 bits (R131). -/
def immB (imm : BitVec 13) : Word := imm.signExtend 32

/-- The U immediate, the field in bits 31:12 over twelve zeros (R132). -/
def immU (imm : BitVec 20) : Word := imm ++ 0#12

/-- The J immediate, sign-extended from its 21 bits (R133). -/
def immJ (imm : BitVec 21) : Word := imm.signExtend 32

/-- The CSR immediate, zero-extended (R134). -/
def immZ (uimm : BitVec 5) : Word := uimm.setWidth 32

/-- The shift amount of the immediate forms, 0 to 31 (R134). -/
def shamtImm (shamt : BitVec 5) : Nat := shamt.toNat

/-- The shift amount of the register forms: the low 5 bits of the register (R161). -/
def shamtReg (v : Word) : Nat := (v.extractLsb' 0 5).toNat

/-- Base plus displacement, modulo 2^32 (R220, R226). -/
def effectiveAddress (base displacement : Word) : Word := base + displacement

/-- `sext_8`, `zext_8`, `sext_16`, `zext_16` of R15, as the loads use them (R221, R222, R224, R225). -/
def sext8 (b : Byte) : Word := b.signExtend 32
def zext8 (b : Byte) : Word := b.setWidth 32
def sext16 (h : BitVec 16) : Word := h.signExtend 32
def zext16 (h : BitVec 16) : Word := h.setWidth 32

/-- Signed and unsigned comparison of words (R161). -/
def ltS (a b : Word) : Bool := decide (a.toInt < b.toInt)
def ltU (a b : Word) : Bool := decide (a.toNat < b.toNat)

/-- An address is a multiple of 4: its bits 1:0 are 0 (R86, R94). -/
def aligned4 (a : Word) : Bool := a.extractLsb' 0 2 == 0#2

/-- An address with its bits 1:0 cleared (R36, R332). -/
def clearLow2 (a : Word) : Word := a &&& 0xFFFFFFFC#32

end Sys2Proof.Machine
end

