-- ==== Sys2Proof/Machine/Ops.lean ====
section
/-! DEFINITION. The named operations over the state: registers, memory, reservations, CSRs, the retire counter, taking
an exception and returning from one, and the end of an instruction. Every meaning is built from these. -/

namespace Sys2Proof.Machine

/-! ## Sequencing -/

/-- Go on with the value and the state of a completed part; an exception or a refusal ends the handler (R15:
"`raise E(info)` ends the instruction at once"). -/
def Result.bind {α β : Type} (r : Result α) (f : α → State → Result β) : Result β :=
  match r with
  | .ok a s => f a s
  | .raise e s => .raise e s
  | .refuse r => .refuse r

/-! ## General registers (R20 to R22) -/

/-- `x[r]`: 0 for index 0, else the stored word (R21). -/
def State.readReg (s : State) (r : RegIdx) : Word :=
  if r = 0#5 then 0#32 else s.regs[r.toNat]'r.isLt

/-- `x[r] <- v`: nothing for index 0, else stores (R22). -/
def State.writeReg (s : State) (r : RegIdx) (v : Word) : State :=
  { s with regs := if r = 0#5 then s.regs else s.regs.set r.toNat v r.isLt }

/-! ## Program counter and privilege level (R25, R28) -/

def State.setPc (s : State) (a : Word) : State := { s with pc := a }

def State.setPriv (s : State) (p : Priv) : State := { s with priv := p }

/-- A handler's transfer of control: it leaves the target less one instruction width, which the retire step adds back
(R11, R240). -/
def State.jumpTo (s : State) (target : Word) : State := s.setPc (target - 4#32)

/-! ## Memory contents (R81 to R83) -/

/-- What a byte of DRAM or ROM reads as when nothing, the loader included, has written it: 0 (DESIGN CHOICE, log entry
4; UNSAFE: the spec leaves it to INIT_MEM). -/
def unlistedByte : Byte := 0#8

def Memory.read (m : Memory) (a : Word) : Byte := Cells.read unlistedByte m a.toNat

def Memory.write (m : Memory) (a : Word) (b : Byte) : Memory := Cells.write unlistedByte m a.toNat b

/-- The canonical form of memory contents. -/
def Memory.wf (m : Memory) : Bool := Cells.canonical unlistedByte m

/-- The regions of the address map (R81). -/
inductive Region where
  | rom
  | uart
  | dram
  | unmapped
deriving DecidableEq, Repr

/-- The region of an address (R81). -/
def regionOf (a : Word) : Region :=
  if Config.romBase ≤ a.toNat ∧ a.toNat < Config.romBase + Config.romSize then .rom
  else if Config.uartBase ≤ a.toNat ∧ a.toNat < Config.uartBase + Config.uartSize then .uart
  else if Config.dramBase ≤ a.toNat ∧ a.toNat < Config.dramBase + Config.dramSize then .dram
  else .unmapped

/-- Every listed address is a DRAM or a ROM byte, the only places that hold one (R81, R83). -/
def Memory.mapped (m : Memory) : Bool :=
  m.all fun c => decide (c.1 < 2 ^ 32) &&
    (regionOf (BitVec.ofNat 32 c.1) == .rom || regionOf (BitVec.ofNat 32 c.1) == .dram)

/-! ## Reservations (R96, R97) -/

def State.reserve (s : State) (a : Word) : State := { s with reservation := some a }

def State.invalidateReservation (s : State) : State := { s with reservation := none }

/-- Exact equality of the 32-bit address (R96). -/
def State.isReserved (s : State) (a : Word) : Bool := s.reservation == some a

/-! ## The four access primitives (R84 to R88) -/

/-- The device answers a byte read: the oracle's next draw, seen by the device (R88, R326). -/
def State.deviceRead (s : State) (a : Word) : State :=
  { s with deviceEvents := s.deviceEvents ++ [.read a], deviceDraws := s.deviceDraws + 1 }

/-- A byte delivered to the device: an output event (R88). -/
def State.deviceWrite (s : State) (a : Word) (b : Byte) : State :=
  { s with deviceEvents := s.deviceEvents ++ [.write a b] }

/-- A byte stored in DRAM; it breaks a reservation of that very address (R85, R97). -/
def State.dramWrite (s : State) (a : Word) (b : Byte) : State :=
  { s with mem := s.mem.write a b, reservation := if s.reservation = some a then none else s.reservation }

/-- `MemReadByte(a)` (R84). -/
def memReadByte (a : Word) (s : State) : Result Byte :=
  match regionOf a with
  | .rom => .ok (s.mem.read a) s
  | .dram => .ok (s.mem.read a) s
  | .uart => .ok (Config.deviceRead s.deviceDraws a) (s.deviceRead a)
  | .unmapped => .raise .loadAccessFault s

/-- `MemWriteByte(a, b)` (R85). -/
def memWriteByte (a : Word) (b : Byte) (s : State) : Result Unit :=
  match regionOf a with
  | .dram => .ok () (s.dramWrite a b)
  | .uart => .ok () (s.deviceWrite a b)
  | .rom => .raise .storeAmoAccessFault s
  | .unmapped => .raise .storeAmoAccessFault s

/-- `MemReadWord(a)`: alignment first, then four byte reads in ascending order (R86). -/
def memReadWord (a : Word) (s : State) : Result Word :=
  if aligned4 a = false then .raise .loadAddressMisaligned s
  else (memReadByte a s).bind fun b0 s0 =>
    (memReadByte (a + 1#32) s0).bind fun b1 s1 =>
    (memReadByte (a + 2#32) s1).bind fun b2 s2 =>
    (memReadByte (a + 3#32) s2).bind fun b3 s3 => .ok (wordOfBytes b0 b1 b2 b3) s3

/-- `MemWriteWord(a, w)`: alignment first, then four byte writes in ascending order (R87). -/
def memWriteWord (a w : Word) (s : State) : Result Unit :=
  if aligned4 a = false then .raise .storeAmoAddressMisaligned s
  else (memWriteByte a (w.byte 0) s).bind fun _ s0 =>
    (memWriteByte (a + 1#32) (w.byte 1) s0).bind fun _ s1 =>
    (memWriteByte (a + 2#32) (w.byte 2) s1).bind fun _ s2 => memWriteByte (a + 3#32) (w.byte 3) s2

/-- `MemRead(addr, 2)`: two byte reads, the low byte first, no alignment test (R92). -/
def memReadHalf (a : Word) (s : State) : Result (BitVec 16) :=
  (memReadByte a s).bind fun lo s0 => (memReadByte (a + 1#32) s0).bind fun hi s1 => .ok (halfOfBytes lo hi) s1

/-- `MemWrite(addr, 2, v)`: two byte writes, the low byte first; if the second faults the first stays (R93). -/
def memWriteHalf (a v : Word) (s : State) : Result Unit :=
  (memWriteByte a (v.byte 0) s).bind fun _ s0 => memWriteByte (a + 1#32) (v.byte 1) s0

/-! ## The CSR bank (R30 to R46)

The index numbers are the spec's, from general knowledge (G3; log entry 10). -/

def csrSstatus   : CsrIdx := 0x100#12
def csrMstatus   : CsrIdx := 0x300#12
def csrMie       : CsrIdx := 0x304#12
def csrMtvec     : CsrIdx := 0x305#12
def csrMepc      : CsrIdx := 0x341#12
def csrMcause    : CsrIdx := 0x342#12
def csrMtval     : CsrIdx := 0x343#12
def csrMip       : CsrIdx := 0x344#12
def csrTselect   : CsrIdx := 0x7A0#12
def csrMinstret  : CsrIdx := 0xB02#12
def csrMinstreth : CsrIdx := 0xB82#12

/-- `csr[i]`, the raw storage word of an index (R30). -/
def State.csrAt (s : State) (i : CsrIdx) : Word := Cells.read 0#32 s.csr i.toNat

def State.setCsr (s : State) (i : CsrIdx) (v : Word) : State :=
  { s with csr := Cells.write 0#32 s.csr i.toNat v }

/-- The canonical form of the bank: 4096 indices (R30). -/
def CsrBank.wf (b : CsrBank) : Bool := Cells.canonical 0#32 b && b.all fun c => decide (c.1 < 4096)

/-- `Tier(i) = i[9:8]` (R31). -/
def csrTier (i : CsrIdx) : Nat := (i.extractLsb' 8 2).toNat

/-- An index is read-only when `i[11:10] = 0b11` (R32). -/
def csrReadOnly (i : CsrIdx) : Bool := i.extractLsb' 10 2 == 0b11#2

/-- `CsrReadRaw(i)`: the read transforms, with no privilege test (R34, R37). -/
def State.csrReadRaw (s : State) (i : CsrIdx) : Word :=
  if i = csrSstatus then s.csrAt csrMstatus &&& s.params.sstatusMask
  else if i = csrMip then s.csrAt csrMip &&& s.params.mipMask
  else if i = csrMie then s.csrAt csrMie &&& s.params.mieMask
  else if i = csrTselect then 0xFFFFFFFF#32
  else s.csrAt i

/-- The storage word that a write of index `i` changes: `sstatus` is a view of `mstatus` (R36, R42). -/
def csrWriteTarget (i : CsrIdx) : CsrIdx := if i = csrSstatus then csrMstatus else i

/-- What a write of `v` to index `i` stores (R36). -/
def State.csrWriteValue (s : State) (i : CsrIdx) (v : Word) : Word :=
  if i = csrSstatus then
    (s.csrAt csrMstatus &&& ~~~s.params.sstatusMask) ||| (v &&& s.params.sstatusMask)
  else if i = csrMepc then clearLow2 v
  else v

/-- `CsrWriteRaw(i, v)`: the write transforms, with no test; either half of the retire counter sets the just-loaded flag
(R36, R38). -/
def State.csrWriteRaw (s : State) (i : CsrIdx) (v : Word) : State :=
  { s.setCsr (csrWriteTarget i) (s.csrWriteValue i v) with
    justLoaded := s.justLoaded || i == csrMinstret || i == csrMinstreth }

/-- The exception of a failed gate; the word attached is not stated (R33, R35, U5). -/
def illegal : Exception := .illegalInstruction none

/-- `CsrRead(i, priv)` (R33). -/
def csrRead (i : CsrIdx) (s : State) : Result Word :=
  if s.priv.level < csrTier i then .raise illegal s else .ok (s.csrReadRaw i) s

/-- `CsrWrite(i, priv, v)` (R35). -/
def csrWrite (i : CsrIdx) (v : Word) (s : State) : Result Unit :=
  if csrReadOnly i then .raise illegal s
  else if s.priv.level < csrTier i then .raise illegal s
  else .ok () (s.csrWriteRaw i v)

/-- `MstatusRef(priv)`: access to the packed `mstatus`, checked as a direct CSR access at its index (R39). -/
def mstatusRef (s : State) : Result Word :=
  if s.priv.level < csrTier csrMstatus then .raise illegal s else .ok (s.csrReadRaw csrMstatus) s

/-! ## The retire counter and retiring (R11, R12, R55 to R58) -/

/-- The 64-bit counter `{minstreth, minstret}` (R55). -/
def State.retireCount (s : State) : BitVec 64 := s.csrAt csrMinstreth ++ s.csrAt csrMinstret

/-- `IncrementRetireCounter()` (R58). -/
def State.incrementRetireCounter (s : State) : State :=
  if s.justLoaded then { s with justLoaded := false }
  else
    let c := s.retireCount + 1#64
    (s.setCsr csrMinstret (c.extractLsb' 0 32)).setCsr csrMinstreth (c.extractLsb' 32 32)

/-- `Retire()`: one instruction width added to the pc, then the counter stepped (R11, R12). -/
def State.retire (s : State) : State := (s.setPc (s.pc + 4#32)).incrementRetireCounter

/-! ## Exceptions: codes, the vector, taking one, returning from one (R320, R330 to R335, R312) -/

/-- `Code(e)` (R320). -/
def Exception.code : Exception → Nat
  | .instructionAddressMisaligned => 0
  | .instructionAccessFault => 1
  | .illegalInstruction _ => 2
  | .breakpoint => 3
  | .loadAddressMisaligned => 4
  | .loadAccessFault => 5
  | .storeAmoAddressMisaligned => 6
  | .storeAmoAccessFault => 7
  | .environmentCallFromUMode => 8
  | .environmentCallFromSMode => 9
  | .environmentCallFromMMode => 11
  | .instructionPageFault => 12
  | .loadPageFault => 13
  | .storeAmoPageFault => 15
  | .doubleTrap => 16
  | .softwareCheck => 18
  | .hardwareError => 19

def Exception.word (e : Exception) : Word := BitVec.ofNat 32 e.code

/-- The handler's address: the base in direct mode, base plus four times the code in vectored mode (R332). -/
def trapTarget (mtvec : Word) (e : Exception) : Word :=
  if mtvec.extractLsb' 0 2 = 0b00#2 then mtvec else clearLow2 mtvec + 4#32 * e.word

/-- `mstatus` after trap entry: MPP the old level, MPIE the old MIE, MIE 0 (R330). -/
def mstatusOnTrap (m : Word) (p : Priv) : Word :=
  MstatusField.set .mie (MstatusField.set .mpie (MstatusField.set .mpp m p.bits) (MstatusField.get .mie m)) 0#1

/-- `Trap(e, pc0)`: the one trap entry (R330). `pc0` is the address of the instruction that raised `e` (R331). -/
def takeException (e : Exception) (pc0 : Word) (s : State) : State :=
  let s1 := s.csrWriteRaw csrMstatus (mstatusOnTrap (s.csrReadRaw csrMstatus) s.priv)
  let s2 := s1.csrWriteRaw csrMepc pc0
  let s3 := s2.csrWriteRaw csrMcause e.word
  let s4 := s3.csrWriteRaw csrMtval 0#32
  let s5 := s4.setPriv .machine
  s5.setPc (trapTarget (s5.csrReadRaw csrMtvec) e)

/-- `mstatus` after MRET: MIE the old MPIE, MPIE 1, MPP User, and MPRV cleared when the level restored is below Machine
(R312). -/
def mstatusOnMret (m : Word) : Word :=
  let m3 := MstatusField.set .mpp (MstatusField.set .mpie (MstatusField.set .mie m (MstatusField.get .mpie m)) 1#1) 0#2
  if getMpp m = 3#2 then m3 else MstatusField.set .mprv m3 0#1

/-- The return from an exception (R312, R335). MPP = 2 names no level: refused (U3, D20; log entry 7). -/
def returnFromException (s : State) : Result Unit :=
  (mstatusRef s).bind fun m s0 =>
    match Priv.ofBits (getMpp m) with
    | none => .refuse .mretReservedMpp
    | some p =>
      let s1 := (s0.csrWriteRaw csrMstatus (mstatusOnMret m)).setPriv p
      .ok () (s1.jumpTo (s1.csrReadRaw csrMepc))

/-! ## The end of an instruction (R8) -/

/-- The cycle's last part, `s` being the state in which the instruction began: a completed handler retires; an exception
is taken with the instruction's address; a refusal has no next state. -/
def complete (s : State) (r : Result Unit) : Host.Outcome State Fault Refusal :=
  match r with
  | .ok _ s1 => .next s1.retire
  | .raise e s1 => .next (takeException e s.pc s1)
  | .refuse r => .refused r

/-! ## Fetch (R9) -/

/-- `Fetch(a)`: the instruction variants of the two faults; a fetch from the UART window is four device reads, as
`MemReadWord` says (R9, R88; log entry 9). -/
def fetch (a : Word) (s : State) : Result Word :=
  if aligned4 a = false then .raise .instructionAddressMisaligned s
  else match memReadWord a s with
    | .ok w s1 => .ok w s1
    | .raise _ s1 => .raise .instructionAccessFault s1
    | .refuse r => .refuse r

end Sys2Proof.Machine
end

