-- ==== Sys2Proof/Machine/Atomic.lean ====
section
/-! DEFINITION. Atomic instructions, word forms (spec/44_atomic.md R260 to R272). The ordering bits `aq` and `rl` are
carried and have no effect (R263). -/

namespace Sys2Proof.Machine

/-- The nine AMOs: read, compute, write, then `x[rd]` the old word (R262). -/
def amo (f : Word → Word → Word) (rd rs1 rs2 : RegIdx) (s : State) : Host.Outcome State Fault Refusal :=
  complete s
    ((memReadWord (s.readReg rs1) s).bind fun old s1 =>
      (memWriteWord (s.readReg rs1) (f old (s.readReg rs2)) s1).bind fun _ s2 => .ok () (s2.writeReg rd old))

/-- LR.W's handler: the reservation is made only after the read succeeded (R260). -/
def loadReserved (rd rs1 : RegIdx) (s : State) : Result Unit :=
  (memReadWord (s.readReg rs1) s).bind fun v s1 => .ok () ((s1.reserve (s.readReg rs1)).writeReg rd v)

/-- SC.W's handler: the reservation test comes first, and the reservation is cleared on every exit, a faulting write's
too (R261). -/
def storeConditional (rd rs1 rs2 : RegIdx) (s : State) : Result Unit :=
  if s.isReserved (s.readReg rs1) then
    match memWriteWord (s.readReg rs1) (s.readReg rs2) s with
    | .ok _ s1 => .ok () (s1.invalidateReservation.writeReg rd 0#32)
    | .raise e s1 => .raise e s1.invalidateReservation
    | .refuse r => .refuse r
  else .ok () (s.invalidateReservation.writeReg rd 1#32)

/-- LR.W (R260, its `rs2` field ignored). -/
def execLrW (rd rs1 _rs2 : RegIdx) (_aq _rl : Bool) (s : State) : Host.Outcome State Fault Refusal :=
  complete s (loadReserved rd rs1 s)

/-- SC.W (R261). -/
def execScW (rd rs1 rs2 : RegIdx) (_aq _rl : Bool) (s : State) : Host.Outcome State Fault Refusal :=
  complete s (storeConditional rd rs1 rs2 s)

/-- AMOSWAP.W (R264). -/
def execAmoswapW (rd rs1 rs2 : RegIdx) (_aq _rl : Bool) (s : State) : Host.Outcome State Fault Refusal :=
  amo (fun _ src => src) rd rs1 rs2 s

/-- AMOADD.W (R265). -/
def execAmoaddW (rd rs1 rs2 : RegIdx) (_aq _rl : Bool) (s : State) : Host.Outcome State Fault Refusal :=
  amo (fun old src => old + src) rd rs1 rs2 s

/-- AMOXOR.W (R266). -/
def execAmoxorW (rd rs1 rs2 : RegIdx) (_aq _rl : Bool) (s : State) : Host.Outcome State Fault Refusal :=
  amo (fun old src => old ^^^ src) rd rs1 rs2 s

/-- AMOAND.W (R267). -/
def execAmoandW (rd rs1 rs2 : RegIdx) (_aq _rl : Bool) (s : State) : Host.Outcome State Fault Refusal :=
  amo (fun old src => old &&& src) rd rs1 rs2 s

/-- AMOOR.W (R268). -/
def execAmoorW (rd rs1 rs2 : RegIdx) (_aq _rl : Bool) (s : State) : Host.Outcome State Fault Refusal :=
  amo (fun old src => old ||| src) rd rs1 rs2 s

/-- AMOMIN.W (R269). -/
def execAmominW (rd rs1 rs2 : RegIdx) (_aq _rl : Bool) (s : State) : Host.Outcome State Fault Refusal :=
  amo (fun old src => if ltS old src then old else src) rd rs1 rs2 s

/-- AMOMAX.W (R270). -/
def execAmomaxW (rd rs1 rs2 : RegIdx) (_aq _rl : Bool) (s : State) : Host.Outcome State Fault Refusal :=
  amo (fun old src => if ltS src old then old else src) rd rs1 rs2 s

/-- AMOMINU.W (R271). -/
def execAmominuW (rd rs1 rs2 : RegIdx) (_aq _rl : Bool) (s : State) : Host.Outcome State Fault Refusal :=
  amo (fun old src => if ltU old src then old else src) rd rs1 rs2 s

/-- AMOMAXU.W (R272). -/
def execAmomaxuW (rd rs1 rs2 : RegIdx) (_aq _rl : Bool) (s : State) : Host.Outcome State Fault Refusal :=
  amo (fun old src => if ltU src old then old else src) rd rs1 rs2 s

end Sys2Proof.Machine
end

