-- ==== Sys2Proof/Machine/Control.lean ====
section
/-! DEFINITION. Control transfer instructions (spec/43_control_transfer.md R240 to R248). -/

namespace Sys2Proof.Machine

/-- A conditional branch: taken or not, it raises nothing; the target's alignment is the next fetch's business
(R240). -/
def branch (condition : Word → Word → Bool) (rs1 rs2 : RegIdx) (imm : BitVec 13) (s : State) :
    Host.Outcome State Fault Refusal :=
  complete s (.ok () (if condition (s.readReg rs1) (s.readReg rs2) then s.jumpTo (s.pc + immB imm) else s))

/-- A jump to `target` that links to `rd`: a target that is not a multiple of 4 raises before anything is written
(R247, R248). -/
def jumpAndLink (rd : RegIdx) (target : Word) (s : State) : Host.Outcome State Fault Refusal :=
  complete s
    (if aligned4 target = false then .raise .instructionAddressMisaligned s
     else .ok () ((s.writeReg rd (s.pc + 4#32)).jumpTo target))

/-- JAL's target, and JALR's, whose bit 0 is cleared (R247, R248). -/
def jalTarget (s : State) (imm : BitVec 21) : Word := s.pc + immJ imm
def jalrTarget (s : State) (rs1 : RegIdx) (imm : BitVec 12) : Word := (s.readReg rs1 + immI imm) &&& 0xFFFFFFFE#32

/-- BEQ (R241). -/
def execBeq (rs1 rs2 : RegIdx) (imm : BitVec 13) (s : State) : Host.Outcome State Fault Refusal :=
  branch (fun a b => a == b) rs1 rs2 imm s

/-- BNE (R242). -/
def execBne (rs1 rs2 : RegIdx) (imm : BitVec 13) (s : State) : Host.Outcome State Fault Refusal :=
  branch (fun a b => a != b) rs1 rs2 imm s

/-- BLT (R243). -/
def execBlt (rs1 rs2 : RegIdx) (imm : BitVec 13) (s : State) : Host.Outcome State Fault Refusal :=
  branch (fun a b => ltS a b) rs1 rs2 imm s

/-- BGE (R244). -/
def execBge (rs1 rs2 : RegIdx) (imm : BitVec 13) (s : State) : Host.Outcome State Fault Refusal :=
  branch (fun a b => !ltS a b) rs1 rs2 imm s

/-- BLTU (R245). -/
def execBltu (rs1 rs2 : RegIdx) (imm : BitVec 13) (s : State) : Host.Outcome State Fault Refusal :=
  branch (fun a b => ltU a b) rs1 rs2 imm s

/-- BGEU (R246). -/
def execBgeu (rs1 rs2 : RegIdx) (imm : BitVec 13) (s : State) : Host.Outcome State Fault Refusal :=
  branch (fun a b => !ltU a b) rs1 rs2 imm s

/-- JAL (R247). -/
def execJal (rd : RegIdx) (imm : BitVec 21) (s : State) : Host.Outcome State Fault Refusal :=
  jumpAndLink rd (jalTarget s imm) s

/-- JALR (R248). -/
def execJalr (rd rs1 : RegIdx) (imm : BitVec 12) (s : State) : Host.Outcome State Fault Refusal :=
  jumpAndLink rd (jalrTarget s rs1 imm) s

end Sys2Proof.Machine
end

