-- ==== Sys2Proof/Machine/Csr.lean ====
section
/-! DEFINITION. CSR access instructions (spec/45_csr_instructions.md R290 to R297). Read, then write, then `x[rd]`
last. -/

namespace Sys2Proof.Machine

/-- The write forms: no read when `rd` is 0, always a write (R291, R294). -/
def csrSwap (rd : RegIdx) (csr : CsrIdx) (src : Word) (s : State) : Host.Outcome State Fault Refusal :=
  complete s
    (if rd = 0#5 then csrWrite csr src s
     else (csrRead csr s).bind fun old s1 => (csrWrite csr src s1).bind fun _ s2 => .ok () (s2.writeReg rd old))

/-- The set and clear forms: always a read, and a write built from the value read unless the modifying field is 0
(R290, R292, R293, R295, R296). -/
def csrModify (f : Word → Word) (fieldIsZero : Bool) (rd : RegIdx) (csr : CsrIdx) (s : State) :
    Host.Outcome State Fault Refusal :=
  complete s
    ((csrRead csr s).bind fun old s1 =>
      (if fieldIsZero then .ok () s1 else csrWrite csr (f old) s1).bind fun _ s2 => .ok () (s2.writeReg rd old))

/-- CSRRW (R291). -/
def execCsrrw (rd rs1 : RegIdx) (csr : CsrIdx) (s : State) : Host.Outcome State Fault Refusal :=
  csrSwap rd csr (s.readReg rs1) s

/-- CSRRS (R292): the field `rs1` is tested, not the register's value (R290). -/
def execCsrrs (rd rs1 : RegIdx) (csr : CsrIdx) (s : State) : Host.Outcome State Fault Refusal :=
  csrModify (fun old => old ||| s.readReg rs1) (rs1 == 0#5) rd csr s

/-- CSRRC (R293). -/
def execCsrrc (rd rs1 : RegIdx) (csr : CsrIdx) (s : State) : Host.Outcome State Fault Refusal :=
  csrModify (fun old => old &&& ~~~(s.readReg rs1)) (rs1 == 0#5) rd csr s

/-- CSRRWI (R294). -/
def execCsrrwi (rd : RegIdx) (uimm : BitVec 5) (csr : CsrIdx) (s : State) : Host.Outcome State Fault Refusal :=
  csrSwap rd csr (immZ uimm) s

/-- CSRRSI (R295). -/
def execCsrrsi (rd : RegIdx) (uimm : BitVec 5) (csr : CsrIdx) (s : State) : Host.Outcome State Fault Refusal :=
  csrModify (fun old => old ||| immZ uimm) (uimm == 0#5) rd csr s

/-- CSRRCI (R296). -/
def execCsrrci (rd : RegIdx) (uimm : BitVec 5) (csr : CsrIdx) (s : State) : Host.Outcome State Fault Refusal :=
  csrModify (fun old => old &&& ~~~(immZ uimm)) (uimm == 0#5) rd csr s

end Sys2Proof.Machine
end

