-- ==== Sys2Proof/Machine/Integer.lean ====
section
/-! DEFINITION. Integer computational instructions (spec/40_integer_computational.md R160 to R182). -/

namespace Sys2Proof.Machine

/-- A result written to `x[rd]`, and nothing else (R160). -/
def writeResult (rd : RegIdx) (v : Word) (s : State) : Host.Outcome State Fault Refusal :=
  complete s (.ok () (s.writeReg rd v))

/-- `x[rd] <- f(x[rs1], imm)`. -/
def regImm (f : Word → Word → Word) (rd rs1 : RegIdx) (imm : BitVec 12) (s : State) : Host.Outcome State Fault Refusal :=
  writeResult rd (f (s.readReg rs1) (immI imm)) s

/-- `x[rd] <- f(x[rs1], shamt)`. -/
def regShamt (f : Word → Nat → Word) (rd rs1 : RegIdx) (shamt : BitVec 5) (s : State) :
    Host.Outcome State Fault Refusal :=
  writeResult rd (f (s.readReg rs1) (shamtImm shamt)) s

/-- `x[rd] <- f(x[rs1], x[rs2])`. -/
def regReg (f : Word → Word → Word) (rd rs1 rs2 : RegIdx) (s : State) : Host.Outcome State Fault Refusal :=
  writeResult rd (f (s.readReg rs1) (s.readReg rs2)) s

/-- LUI (R162). -/
def execLui (rd : RegIdx) (imm : BitVec 20) (s : State) : Host.Outcome State Fault Refusal :=
  writeResult rd (immU imm) s

/-- AUIPC: the pc is the AUIPC's own address (R163). -/
def execAuipc (rd : RegIdx) (imm : BitVec 20) (s : State) : Host.Outcome State Fault Refusal :=
  writeResult rd (s.pc + immU imm) s

/-- ADDI (R164). -/
def execAddi (rd rs1 : RegIdx) (imm : BitVec 12) (s : State) : Host.Outcome State Fault Refusal :=
  regImm (fun a b => a + b) rd rs1 imm s

/-- SLTI (R165). -/
def execSlti (rd rs1 : RegIdx) (imm : BitVec 12) (s : State) : Host.Outcome State Fault Refusal :=
  regImm (fun a b => wordOfBool (ltS a b)) rd rs1 imm s

/-- SLTIU (R166): the immediate sign-extended, then read as unsigned. -/
def execSltiu (rd rs1 : RegIdx) (imm : BitVec 12) (s : State) : Host.Outcome State Fault Refusal :=
  regImm (fun a b => wordOfBool (ltU a b)) rd rs1 imm s

/-- XORI (R167). -/
def execXori (rd rs1 : RegIdx) (imm : BitVec 12) (s : State) : Host.Outcome State Fault Refusal :=
  regImm (fun a b => a ^^^ b) rd rs1 imm s

/-- ORI (R168). -/
def execOri (rd rs1 : RegIdx) (imm : BitVec 12) (s : State) : Host.Outcome State Fault Refusal :=
  regImm (fun a b => a ||| b) rd rs1 imm s

/-- ANDI (R169). -/
def execAndi (rd rs1 : RegIdx) (imm : BitVec 12) (s : State) : Host.Outcome State Fault Refusal :=
  regImm (fun a b => a &&& b) rd rs1 imm s

/-- SLLI (R170). -/
def execSlli (rd rs1 : RegIdx) (shamt : BitVec 5) (s : State) : Host.Outcome State Fault Refusal :=
  regShamt (fun a n => a <<< n) rd rs1 shamt s

/-- SRLI (R171). -/
def execSrli (rd rs1 : RegIdx) (shamt : BitVec 5) (s : State) : Host.Outcome State Fault Refusal :=
  regShamt (fun a n => a >>> n) rd rs1 shamt s

/-- SRAI (R172). -/
def execSrai (rd rs1 : RegIdx) (shamt : BitVec 5) (s : State) : Host.Outcome State Fault Refusal :=
  regShamt (fun a n => a.sshiftRight n) rd rs1 shamt s

/-- ADD (R173). -/
def execAdd (rd rs1 rs2 : RegIdx) (s : State) : Host.Outcome State Fault Refusal :=
  regReg (fun a b => a + b) rd rs1 rs2 s

/-- SUB (R174). -/
def execSub (rd rs1 rs2 : RegIdx) (s : State) : Host.Outcome State Fault Refusal :=
  regReg (fun a b => a - b) rd rs1 rs2 s

/-- SLL (R175). -/
def execSll (rd rs1 rs2 : RegIdx) (s : State) : Host.Outcome State Fault Refusal :=
  regReg (fun a b => a <<< shamtReg b) rd rs1 rs2 s

/-- SLT (R176). -/
def execSlt (rd rs1 rs2 : RegIdx) (s : State) : Host.Outcome State Fault Refusal :=
  regReg (fun a b => wordOfBool (ltS a b)) rd rs1 rs2 s

/-- SLTU (R177). -/
def execSltu (rd rs1 rs2 : RegIdx) (s : State) : Host.Outcome State Fault Refusal :=
  regReg (fun a b => wordOfBool (ltU a b)) rd rs1 rs2 s

/-- XOR (R178). -/
def execXor (rd rs1 rs2 : RegIdx) (s : State) : Host.Outcome State Fault Refusal :=
  regReg (fun a b => a ^^^ b) rd rs1 rs2 s

/-- SRL (R179). -/
def execSrl (rd rs1 rs2 : RegIdx) (s : State) : Host.Outcome State Fault Refusal :=
  regReg (fun a b => a >>> shamtReg b) rd rs1 rs2 s

/-- SRA (R180). -/
def execSra (rd rs1 rs2 : RegIdx) (s : State) : Host.Outcome State Fault Refusal :=
  regReg (fun a b => a.sshiftRight (shamtReg b)) rd rs1 rs2 s

/-- OR (R181). -/
def execOr (rd rs1 rs2 : RegIdx) (s : State) : Host.Outcome State Fault Refusal :=
  regReg (fun a b => a ||| b) rd rs1 rs2 s

/-- AND (R182). -/
def execAnd (rd rs1 rs2 : RegIdx) (s : State) : Host.Outcome State Fault Refusal :=
  regReg (fun a b => a &&& b) rd rs1 rs2 s

end Sys2Proof.Machine
end

