-- ==== Sys2Proof/Machine/LoadStore.lean ====
section
/-! DEFINITION. Loads, stores and FENCE (spec/42_load_store.md R220 to R232). -/

namespace Sys2Proof.Machine

/-- The address of a load, and of a store (R220, R226). -/
def loadAddress (s : State) (rs1 : RegIdx) (imm : BitVec 12) : Word := effectiveAddress (s.readReg rs1) (immI imm)
def storeAddress (s : State) (rs1 : RegIdx) (imm : BitVec 12) : Word := effectiveAddress (s.readReg rs1) (immS imm)

/-- A load: the read first, `x[rd]` last; a read that raises writes nothing (R220). -/
def load {α : Type} (access : Word → State → Result α) (extend : α → Word) (rd rs1 : RegIdx) (imm : BitVec 12)
    (s : State) : Host.Outcome State Fault Refusal :=
  complete s ((access (loadAddress s rs1 imm) s).bind fun v s1 => .ok () (s1.writeReg rd (extend v)))

/-- A store: the data register's low bytes, truncated and not checked (R226). -/
def store (access : Word → Word → State → Result Unit) (rs1 rs2 : RegIdx) (imm : BitVec 12) (s : State) :
    Host.Outcome State Fault Refusal :=
  complete s (access (storeAddress s rs1 imm) (s.readReg rs2) s)

/-- LB (R221). -/
def execLb (rd rs1 : RegIdx) (imm : BitVec 12) (s : State) : Host.Outcome State Fault Refusal :=
  load memReadByte sext8 rd rs1 imm s

/-- LH (R222). -/
def execLh (rd rs1 : RegIdx) (imm : BitVec 12) (s : State) : Host.Outcome State Fault Refusal :=
  load memReadHalf sext16 rd rs1 imm s

/-- LW (R223). -/
def execLw (rd rs1 : RegIdx) (imm : BitVec 12) (s : State) : Host.Outcome State Fault Refusal :=
  load memReadWord id rd rs1 imm s

/-- LBU (R224). -/
def execLbu (rd rs1 : RegIdx) (imm : BitVec 12) (s : State) : Host.Outcome State Fault Refusal :=
  load memReadByte zext8 rd rs1 imm s

/-- LHU (R225). -/
def execLhu (rd rs1 : RegIdx) (imm : BitVec 12) (s : State) : Host.Outcome State Fault Refusal :=
  load memReadHalf zext16 rd rs1 imm s

/-- SB (R227). -/
def execSb (rs1 rs2 : RegIdx) (imm : BitVec 12) (s : State) : Host.Outcome State Fault Refusal :=
  store (fun a v => memWriteByte a (v.byte 0)) rs1 rs2 imm s

/-- SH (R228). -/
def execSh (rs1 rs2 : RegIdx) (imm : BitVec 12) (s : State) : Host.Outcome State Fault Refusal :=
  store memWriteHalf rs1 rs2 imm s

/-- SW (R229). -/
def execSw (rs1 rs2 : RegIdx) (imm : BitVec 12) (s : State) : Host.Outcome State Fault Refusal :=
  store memWriteWord rs1 rs2 imm s

/-- FENCE: every field ignored; it does nothing and retires (R232, R101). -/
def execFence (_rd _rs1 : RegIdx) (_fm _pred _succ : BitVec 4) (s : State) : Host.Outcome State Fault Refusal :=
  complete s (.ok () s)

end Sys2Proof.Machine
end

