-- ==== Sys2Proof/Machine/MulDiv.lean ====
section
/-! DEFINITION. Multiply and divide instructions (spec/41_muldiv.md R200 to R208). Operands are read as integers, the
exact result is computed, and it is narrowed at the end. -/

namespace Sys2Proof.Machine

/-- The low 32 bits of the product, the same for both readings (R201). -/
def mulLow (a b : Word) : Word := BitVec.ofNat 32 (a.toNat * b.toNat)

/-- Bits 63:32 of an exact product as a 64-bit two's-complement number (R202 to R204). -/
def high32 (product : Int) : Word := (BitVec.ofInt 64 product).extractLsb' 32 32

/-- DIV's quotient: all ones by zero, the overflow corner, else rounded toward zero (R205). -/
def divSigned (a b : Word) : Word :=
  if b = 0#32 then 0xFFFFFFFF#32
  else if a = 0x80000000#32 ∧ b = 0xFFFFFFFF#32 then 0x80000000#32
  else BitVec.ofInt 32 (a.toInt.tdiv b.toInt)

/-- DIVU's quotient (R206). -/
def divUnsigned (a b : Word) : Word :=
  if b = 0#32 then 0xFFFFFFFF#32 else BitVec.ofNat 32 (a.toNat / b.toNat)

/-- REM's remainder: the dividend by zero, 0 in the overflow corner, else the sign of the dividend (R207). -/
def remSigned (a b : Word) : Word :=
  if b = 0#32 then a
  else if a = 0x80000000#32 ∧ b = 0xFFFFFFFF#32 then 0#32
  else BitVec.ofInt 32 (a.toInt - b.toInt * a.toInt.tdiv b.toInt)

/-- REMU's remainder (R208). -/
def remUnsigned (a b : Word) : Word :=
  if b = 0#32 then a else BitVec.ofNat 32 (a.toNat % b.toNat)

/-- MUL (R201). -/
def execMul (rd rs1 rs2 : RegIdx) (s : State) : Host.Outcome State Fault Refusal :=
  regReg (fun a b => mulLow a b) rd rs1 rs2 s

/-- MULH (R202). -/
def execMulh (rd rs1 rs2 : RegIdx) (s : State) : Host.Outcome State Fault Refusal :=
  regReg (fun a b => high32 (a.toInt * b.toInt)) rd rs1 rs2 s

/-- MULHSU (R203). -/
def execMulhsu (rd rs1 rs2 : RegIdx) (s : State) : Host.Outcome State Fault Refusal :=
  regReg (fun a b => high32 (a.toInt * (b.toNat : Int))) rd rs1 rs2 s

/-- MULHU (R204). -/
def execMulhu (rd rs1 rs2 : RegIdx) (s : State) : Host.Outcome State Fault Refusal :=
  regReg (fun a b => high32 ((a.toNat : Int) * (b.toNat : Int))) rd rs1 rs2 s

/-- DIV (R205). -/
def execDiv (rd rs1 rs2 : RegIdx) (s : State) : Host.Outcome State Fault Refusal :=
  regReg (fun a b => divSigned a b) rd rs1 rs2 s

/-- DIVU (R206). -/
def execDivu (rd rs1 rs2 : RegIdx) (s : State) : Host.Outcome State Fault Refusal :=
  regReg (fun a b => divUnsigned a b) rd rs1 rs2 s

/-- REM (R207). -/
def execRem (rd rs1 rs2 : RegIdx) (s : State) : Host.Outcome State Fault Refusal :=
  regReg (fun a b => remSigned a b) rd rs1 rs2 s

/-- REMU (R208). -/
def execRemu (rd rs1 rs2 : RegIdx) (s : State) : Host.Outcome State Fault Refusal :=
  regReg (fun a b => remUnsigned a b) rd rs1 rs2 s

end Sys2Proof.Machine
end

