-- ==== Sys2Proof/Machine/Privileged.lean ====
section
/-! DEFINITION. Environment and privileged instructions (spec/46_privileged.md R310 to R313). -/

namespace Sys2Proof.Machine

/-- The environment-call cause of a privilege level (R310). -/
def environmentCall : Priv → Exception
  | .user => .environmentCallFromUMode
  | .supervisor => .environmentCallFromSMode
  | .machine => .environmentCallFromMMode

/-- ECALL (R310). -/
def execEcall (s : State) : Host.Outcome State Fault Refusal :=
  complete s (.raise (environmentCall s.priv) s)

/-- EBREAK (R311). -/
def execEbreak (s : State) : Host.Outcome State Fault Refusal :=
  complete s (.raise .breakpoint s)

/-- SRET: a no-op that retires, at every privilege level (R313, U1). -/
def execSret (s : State) : Host.Outcome State Fault Refusal :=
  complete s (.ok () s)

/-- MRET (R312). -/
def execMret (s : State) : Host.Outcome State Fault Refusal :=
  complete s (returnFromException s)

end Sys2Proof.Machine
end

