-- ==== Sys2Proof/Machine/HostInterface.lean ====
section
/-! DEFINITION. What the host and the loader can do to the machine between cycles (spec/70_reset_and_hazards.md R376,
R380, R381). Neither is a step of the hart: no reservation is broken, no instruction counted, no device read. -/

namespace Sys2Proof.Machine

/-- The loader's write of consecutive bytes into the image (R376, R83). -/
def Memory.load (m : Memory) (a : Word) : List Byte → Memory
  | [] => m
  | b :: bs => Memory.load (m.write a b) (a + 1#32) bs

/-- The state with an image's bytes placed at an address by the loader. -/
def State.load (s : State) (a : Word) (bytes : List Byte) : State := { s with mem := s.mem.load a bytes }

/-- The host's read of a DRAM or ROM byte (R381). -/
def hostReadByte (s : State) (a : Word) : Option Byte :=
  match regionOf a with
  | .rom => some (s.mem.read a)
  | .dram => some (s.mem.read a)
  | .uart => none
  | .unmapped => none

/-- The little-endian word the host polls (R380). -/
def hostReadWord (s : State) (a : Word) : Option Word :=
  match hostReadByte s a, hostReadByte s (a + 1#32), hostReadByte s (a + 2#32), hostReadByte s (a + 3#32) with
  | some b0, some b1, some b2, some b3 => some (wordOfBytes b0 b1 b2 b3)
  | _, _, _, _ => none

/-- An address from which an instruction word of DRAM or ROM can be fetched (R9, R81). -/
def fetchable (a : Word) : Bool := aligned4 a && (regionOf a == .rom || regionOf a == .dram)

/-- Where a fetch word is placed: at the pc, or at the start of DRAM where nothing can be fetched at the pc. -/
def fetchPlace (s : State) : Word :=
  if fetchable s.pc then s.pc else BitVec.ofNat 32 Config.dramBase

end Sys2Proof.Machine
end

