-- ==== Sys2Proof/Machine/Step.lean ====
section
/-! DEFINITION. One step: one cycle of the hart (spec/00_scope.md R8). -/

namespace Sys2Proof.Machine

/-- `Cycle()` (R8): fetch, decode, execute, and trap or retire. A failed fetch or decode traps with the pc at which the
cycle began (R9, R10); `exec` takes its own exceptions and retires. -/
def step (s : State) : Host.Outcome State Fault Refusal :=
  match fetch s.pc s with
  | .raise e s1 => .next (takeException e s.pc s1)
  | .refuse r => .refused r
  | .ok w s1 =>
    match decodeWord w with
    | .error _ => .next (takeException (.illegalInstruction (some w)) s.pc s1)
    | .ok i => exec i s1

/-- The state with an instruction of `nbits` bits, of value `w`, placed by the loader where the next step fetches it
(R376; log entry 9). The pc is moved only where nothing can be fetched at it. -/
def State.withFetchWord (s : State) (nbits w : Nat) : State :=
  { s.load (fetchPlace s) (bytesOfWord (BitVec.ofNat 32 (w % 2 ^ nbits))) with pc := fetchPlace s }

end Sys2Proof.Machine
end

