-- ==== Sys2Proof/Safety.lean ====
section
/-! DEFINITION. The terms claims use: what is read of a state from outside, what an instruction leaves alone, how an
instruction completes or traps, the invariant of the machine, and the host's pass test. -/

namespace Sys2Proof.Machine

/-! ## Reading memory -/

/-- The halfword and the word that memory holds at an address, little-endian (R90, R92, R86). -/
def Memory.halfAt (m : Memory) (a : Word) : BitVec 16 := halfOfBytes (m.read a) (m.read (a + 1#32))

def Memory.wordAt (m : Memory) (a : Word) : Word :=
  wordOfBytes (m.read a) (m.read (a + 1#32)) (m.read (a + 2#32)) (m.read (a + 3#32))

/-- The address names a byte that memory holds: DRAM or ROM (R81). -/
def backed (a : Word) : Prop := regionOf a = .rom ∨ regionOf a = .dram

/-! ## What is left alone -/

/-- Every byte of memory outside the `n` bytes from `a` up reads as before. -/
def SameMemoryOutside (a : Word) (n : Nat) (s t : State) : Prop :=
  ∀ b : Word, (∀ k : Nat, k < n → b ≠ a + BitVec.ofNat 32 k) → t.mem.read b = s.mem.read b

/-- Every byte of memory reads as before. -/
def SameMemory (s t : State) : Prop := ∀ b : Word, t.mem.read b = s.mem.read b

/-- The UART device has seen nothing new. -/
def SameDevice (s t : State) : Prop := t.deviceEvents = s.deviceEvents ∧ t.deviceDraws = s.deviceDraws

/-- Every general register reads as before. -/
def SameRegs (s t : State) : Prop := ∀ r : RegIdx, t.readReg r = s.readReg r

/-- Register `rd` reads `v` and every other register reads as before; with `rd = 0` nothing changes (R21, R22). -/
def WritesReg (rd : RegIdx) (v : Word) (s t : State) : Prop :=
  ∀ r : RegIdx, t.readReg r = if r = rd ∧ rd ≠ 0#5 then v else s.readReg r

/-- Every CSR word but those of the retire counter reads as before. -/
def SameCsrs (s t : State) : Prop :=
  ∀ i : CsrIdx, i ≠ csrMinstret → i ≠ csrMinstreth → t.csrAt i = s.csrAt i

/-- The retire counter stepped once, or spent the just-loaded flag (R58). -/
def CounterStepped (s t : State) : Prop :=
  t.retireCount = (if s.justLoaded then s.retireCount else s.retireCount + 1#64) ∧ t.justLoaded = false

/-- Privilege level and parameters as before. -/
def SameMode (s t : State) : Prop := t.priv = s.priv ∧ t.params = s.params

/-- All but the registers, the pc and the retire counter is as before. -/
def OnlyRegisters (s t : State) : Prop :=
  SameCsrs s t ∧ SameMode s t ∧ t.reservation = s.reservation ∧ SameMemory s t ∧ SameDevice s t

/-! ## How an instruction ends -/

/-- The instruction completes: `x[rd]` gets `v`, the next pc is `pc'`, the retire counter steps, and nothing else
changes (R11, R12, R160). -/
def CompletesWith (o : Host.Outcome State Fault Refusal) (s : State) (rd : RegIdx) (v pc' : Word) : Prop :=
  ∃ t, o = .next t ∧ WritesReg rd v s t ∧ t.pc = pc' ∧ CounterStepped s t ∧ OnlyRegisters s t

/-- The instruction traps with `e`, having changed nothing: the next state is trap entry from the state it began in
(R326, R330). -/
def Traps (o : Host.Outcome State Fault Refusal) (s : State) (e : Exception) : Prop :=
  o = .next (takeException e s.pc s)

/-- `t` is trap entry with `e`, from `s`, at the instruction address `pc0`, read from outside (R330 to R333). -/
structure TrapEntered (e : Exception) (pc0 : Word) (s t : State) : Prop where
  mpp    : getMpp (t.csrAt csrMstatus) = s.priv.bits
  mpie   : MstatusField.get .mpie (t.csrAt csrMstatus) = MstatusField.get .mie (s.csrAt csrMstatus)
  mie    : MstatusField.get .mie (t.csrAt csrMstatus) = 0#1
  others : ∀ f : MstatusField, f ≠ .mpp → f ≠ .mpie → f ≠ .mie → f.get (t.csrAt csrMstatus) = f.get (s.csrAt csrMstatus)
  mepc   : t.csrAt csrMepc = clearLow2 pc0
  mcause : t.csrAt csrMcause = BitVec.ofNat 32 e.code
  mtval  : t.csrAt csrMtval = 0#32
  priv   : t.priv = .machine
  pc     : t.pc = if (s.csrAt csrMtvec).extractLsb' 0 2 = 0#2 then s.csrAt csrMtvec
                  else clearLow2 (s.csrAt csrMtvec) + BitVec.ofNat 32 (4 * e.code)
  csrs   : ∀ i : CsrIdx, i ∉ [csrMstatus, csrMepc, csrMcause, csrMtval] → t.csrAt i = s.csrAt i
  regs   : SameRegs s t
  flag   : t.justLoaded = s.justLoaded
  resv   : t.reservation = s.reservation
  mem    : SameMemory s t
  device : SameDevice s t
  params : t.params = s.params

/-- `s` with the bytes `bs` stored in memory from address `a` up, and no other byte changed; a reservation of one of the
stored addresses is gone, any other is kept (R93, R97). -/
def StoresBytes (a : Word) (bs : List Byte) (s t : State) : Prop :=
  (∀ (k : Nat) (b : Byte), bs[k]? = some b → t.mem.read (a + BitVec.ofNat 32 k) = b) ∧
  SameMemoryOutside a bs.length s t ∧
  ((∃ k, k < bs.length ∧ s.reservation = some (a + BitVec.ofNat 32 k)) → t.reservation = none) ∧
  ((∀ k, k < bs.length → s.reservation ≠ some (a + BitVec.ofNat 32 k)) → t.reservation = s.reservation)

/-- The instruction retires, at `pc'`, with the CSRs, the mode and the parameters as before; the registers, memory, the
reservation and the device are said apart (R11, R12). -/
def Retires (o : Host.Outcome State Fault Refusal) (s t : State) (pc' : Word) : Prop :=
  o = .next t ∧ t.pc = pc' ∧ CounterStepped s t ∧ SameCsrs s t ∧ SameMode s t

/-- A CSR instruction completes: `x[rd]` gets `old`, and index `csr` is written with `new`, if there is a new value,
through its write transform (R36). Writing a half of the retire counter sets the just-loaded flag, which the same
instruction's retire consumes, so the counter then holds what was written (R58, D25). -/
def CsrAccessed (o : Host.Outcome State Fault Refusal) (s : State) (rd : RegIdx) (old : Word) (csr : CsrIdx)
    (new : Option Word) : Prop :=
  ∃ t, o = .next t ∧ t.pc = s.pc + 4#32 ∧ WritesReg rd old s t ∧ SameMode s t ∧ t.reservation = s.reservation ∧
    SameMemory s t ∧ SameDevice s t ∧
    match new with
    | none => CounterStepped s t ∧ SameCsrs s t
    | some v =>
      if csr = csrMinstret ∨ csr = csrMinstreth then
        t.csrAt csr = v ∧ (∀ j : CsrIdx, j ≠ csr → t.csrAt j = s.csrAt j) ∧ t.justLoaded = false
      else
        CounterStepped s t ∧ t.csrAt (csrWriteTarget csr) = s.csrWriteValue csr v ∧
          ∀ j : CsrIdx, j ∉ [csrWriteTarget csr, csrMinstret, csrMinstreth] → t.csrAt j = s.csrAt j

/-! ## Classes of instructions -/

/-- The register an instruction may write: its `rd` field, where its shape has one and the hardware uses it (R24). -/
def destination : Instr → Option RegIdx
  | .lui rd _ | .auipc rd _ | .jal rd _ | .jalr rd _ _ => some rd
  | .beq _ _ _ | .bne _ _ _ | .blt _ _ _ | .bge _ _ _ | .bltu _ _ _ | .bgeu _ _ _ => none
  | .lb rd _ _ | .lh rd _ _ | .lw rd _ _ | .lbu rd _ _ | .lhu rd _ _ => some rd
  | .sb _ _ _ | .sh _ _ _ | .sw _ _ _ => none
  | .addi rd _ _ | .slti rd _ _ | .sltiu rd _ _ | .xori rd _ _ | .ori rd _ _ | .andi rd _ _ => some rd
  | .slli rd _ _ | .srli rd _ _ | .srai rd _ _ => some rd
  | .add rd _ _ | .sub rd _ _ | .sll rd _ _ | .slt rd _ _ | .sltu rd _ _ => some rd
  | .xor rd _ _ | .srl rd _ _ | .sra rd _ _ | .or rd _ _ | .and rd _ _ => some rd
  | .fence _ _ _ _ _ | .ecall | .ebreak | .sret | .mret => none
  | .csrrw rd _ _ | .csrrs rd _ _ | .csrrc rd _ _ | .csrrwi rd _ _ | .csrrsi rd _ _ | .csrrci rd _ _ => some rd
  | .mul rd _ _ | .mulh rd _ _ | .mulhsu rd _ _ | .mulhu rd _ _ => some rd
  | .div rd _ _ | .divu rd _ _ | .rem rd _ _ | .remu rd _ _ => some rd
  | .lrW rd _ _ _ _ | .scW rd _ _ _ _ | .amoswapW rd _ _ _ _ | .amoaddW rd _ _ _ _ | .amoxorW rd _ _ _ _ => some rd
  | .amoandW rd _ _ _ _ | .amoorW rd _ _ _ _ | .amominW rd _ _ _ _ | .amomaxW rd _ _ _ _ => some rd
  | .amominuW rd _ _ _ _ | .amomaxuW rd _ _ _ _ => some rd

/-- The instructions that can store to memory: the stores, SC.W and the AMOs (R226, R261, R262). -/
def storesMemory : Instr → Bool
  | .sb _ _ _ | .sh _ _ _ | .sw _ _ _ => true
  | .scW _ _ _ _ _ | .amoswapW _ _ _ _ _ | .amoaddW _ _ _ _ _ | .amoxorW _ _ _ _ _ | .amoandW _ _ _ _ _ => true
  | .amoorW _ _ _ _ _ | .amominW _ _ _ _ _ | .amomaxW _ _ _ _ _ | .amominuW _ _ _ _ _ | .amomaxuW _ _ _ _ _ => true
  | _ => false

/-- The instructions whose behaviour depends on the privilege level: ECALL, MRET and the CSR instructions (R314). -/
def modeSensitive : Instr → Bool
  | .ecall | .mret => true
  | .csrrw _ _ _ | .csrrs _ _ _ | .csrrc _ _ _ | .csrrwi _ _ _ | .csrrsi _ _ _ | .csrrci _ _ _ => true
  | _ => false

/-- The instructions that set the pc themselves: the branches, the jumps and MRET (R25). -/
def transfersControl : Instr → Bool
  | .beq _ _ _ | .bne _ _ _ | .blt _ _ _ | .bge _ _ _ | .bltu _ _ _ | .bgeu _ _ _ => true
  | .jal _ _ | .jalr _ _ _ | .mret => true
  | _ => false

/-- The CSR index of a CSR instruction (R290). -/
def csrOperand : Instr → Option CsrIdx
  | .csrrw _ _ csr | .csrrs _ _ csr | .csrrc _ _ csr | .csrrwi _ _ csr | .csrrsi _ _ csr | .csrrci _ _ csr => some csr
  | _ => none

/-- A CSR instruction wrote one half of the retire counter: the other half is as before, and the just-loaded flag that
the write set is spent (R36, R58). -/
def CounterWritten (i : Instr) (s t : State) : Prop :=
  (csrOperand i = some csrMinstret ∧ t.csrAt csrMinstreth = s.csrAt csrMinstreth ∨
    csrOperand i = some csrMinstreth ∧ t.csrAt csrMinstret = s.csrAt csrMinstret) ∧ t.justLoaded = false

/-! ## The machine's invariant -/

/-- What every state of a run has: x0's slot holds 0 (R20), memory and the CSR bank are canonical and list only what
exists (R81, R30), `mepc` is a multiple of 4 (R36, R45), a read-only CSR holds 0 (R46), `sstatus` has no contents of its
own (R42), the pc is even (R27), and a reservation is a readable multiple of 4 (R98, R260). -/
structure State.Inv (s : State) : Prop where
  x0           : s.regs[0] = 0#32
  memCanonical : s.mem.wf = true
  memMapped    : s.mem.mapped = true
  csrCanonical : CsrBank.wf s.csr = true
  mepc         : aligned4 (s.csrAt csrMepc) = true
  readOnly     : ∀ i : CsrIdx, csrReadOnly i = true → s.csrAt i = 0#32
  sstatus      : s.csrAt csrSstatus = 0#32
  pcEven       : s.pc.getLsbD 0 = false
  reservation  : ∀ a : Word, s.reservation = some a → aligned4 a = true ∧ regionOf a ≠ .unmapped

/-! ## The host's test -/

/-- The run has passed: the word at TOHOST_ADDR is 1 (R380). TOHOST_ADDR is the host's parameter, so an argument. -/
def toHostPass (tohostAddr : Word) (s : State) : Bool := hostReadWord s tohostAddr == some 1#32

end Sys2Proof.Machine
end

