-- ==== Sys2Proof/Certificates/Slice0/Obligations.lean ====
section
/-! DEFINITION. The statements for the provers. Each is about every state and every operand; the rule it formalises is
named in its docstring. Where a clause rests on a decision the spec marks as its own (D1 to D37), on general knowledge
(G1 to G10) or on the model's choice, the statement's basis is 'derived' and its docstring says so. -/

open Sys2Proof Sys2Proof.Machine

/-! ## Encoding and decoding -/

/-- Decoding an encoded well-formed instruction gives it back, with every operand, and leaves the bytes after it
(30_encoding.md; the numbers are G1's). Also rests on the spec's D6, that FENCE decodes, with any fields (log entry
23); D26, that LR.W's `rs2` field is free (log entry 40). -/
def Obligations.DecodeInvertsEncode : Prop :=
  ∀ (i : Instr) (rest : List Byte), i.wellFormed = true → decode (bytesOfWord (encode i) ++ rest) = .ok (i, rest)

/-- What the decoder accepts is well-formed and is what the encoder writes: no two words are one instruction
(30_encoding.md; the numbers are G1's, log entry 10). Also rests on the spec's D6, that FENCE decodes, with any fields
(log entry 23); D26, that LR.W's `rs2` field is free (log entry 40); D33, how exactly the sub-fields are matched (log
entry 43); D34, the width of the shift check (log entry 43). -/
def Obligations.EncodeInvertsDecode : Prop :=
  ∀ (bytes rest : List Byte) (i : Instr), decode bytes = .ok (i, rest) →
    i.wellFormed = true ∧ bytes = bytesOfWord (encode i) ++ rest

/-- The decoder, written from R135 to R143, agrees with spec/opcode_table.json: it accepts exactly the words that some
row covers, and gives the instruction of that row (the numbers of both are G1's, log entry 10). Also rests on the
spec's D6, that FENCE decodes and nothing else the source does not name (log entry 23); D26, that LR.W's `rs2` field
is free (log entry 40); D33, how exactly the sub-fields are matched (log entry 43); D34, the width of the shift check
(log entry 43). -/
def Obligations.DecoderAgreesWithOpcodeTable : Prop :=
  ∀ w : Word,
    (∀ i, decodeWord w = .ok i → ∃ r ∈ opcodeTable, r.mnemonic = i.mnemonic ∧ r.covers w = true) ∧
    (∀ r ∈ opcodeTable, r.covers w = true → ∃ i, decodeWord w = .ok i ∧ i.mnemonic = r.mnemonic)

/-- Words written out from the encodings, one per family, and three the decoder refuses (R141; the numbers are G1's,
log entry 10). Also rests on the spec's D6, that the FENCE.I pattern and WFI do not decode (log entry 23). -/
def Obligations.SampleWordsDecode : Prop :=
  decodeWord 0b00010010001101000101_00101_0110111#32 = .ok (.lui 5 0x12345) ∧
  decodeWord 0b111111111111_00110_000_00101_0010011#32 = .ok (.addi 5 6 0xFFF) ∧
  decodeWord 0b0100000_00100_00110_101_00101_0010011#32 = .ok (.srai 5 6 4) ∧
  decodeWord 0b0100000_00111_00110_000_00101_0110011#32 = .ok (.sub 5 6 7) ∧
  decodeWord 0b0000001_00111_00110_100_00101_0110011#32 = .ok (.div 5 6 7) ∧
  decodeWord 0b000000000010_00110_001_00101_0000011#32 = .ok (.lh 5 6 2) ∧
  decodeWord 0b1111111_00111_00110_001_11110_0100011#32 = .ok (.sh 6 7 0xFFE) ∧
  decodeWord 0b1_111111_00111_00110_001_1110_1_1100011#32 = .ok (.bne 6 7 0x1FFC) ∧
  decodeWord 0b1_1111111100_1_11111111_00000_1101111#32 = .ok (.jal 0 0x1FFFF8) ∧
  decodeWord 0b00011_0_0_00111_00110_010_00101_0101111#32 = .ok (.scW 5 6 7 false false) ∧
  decodeWord 0b001101000000_00110_001_00101_1110011#32 = .ok (.csrrw 5 6 0x340) ∧
  decodeWord 0b001100000010_00000_000_00000_1110011#32 = .ok .mret ∧
  decodeWord 0x00000000#32 = .error .unknownOpcode ∧
  decodeWord 0x0000100F#32 = .error .unknownFunct3 ∧
  decodeWord 0x10500073#32 = .error .unknownSystem

/-! ## The cycle -/

/-- When the four bytes at an aligned pc in DRAM or ROM decode to an instruction, a step is `exec` of it, and nothing
else: `exec` itself moves the pc, retires or traps (R8, R9). Also rests on the spec's D14, that ROM is readable (log
entry 30). -/
def Obligations.StepRunsDecodedInstruction : Prop :=
  ∀ (s : State) (i : Instr) (rest : List Byte), aligned4 s.pc = true → backed s.pc →
    decode ([s.mem.read s.pc, s.mem.read (s.pc + 1#32), s.mem.read (s.pc + 2#32), s.mem.read (s.pc + 3#32)] ++ rest)
      = .ok (i, rest) →
    step s = exec i s

/-- A word placed for the fetch is the instruction the next step runs, from every state (log entry 9: the model's own
`withFetchWord` stands for the loader). Also rests on the spec's D14, that ROM is readable (log entry 30). -/
def Obligations.PlacedWordRuns : Prop :=
  ∀ (s : State) (w : Word) (i : Instr), decodeWord w = .ok i →
    step (s.withFetchWord 32 w.toNat) = exec i (s.withFetchWord 32 w.toNat)

/-- A fetch at a misaligned pc traps with InstructionAddressMisaligned, code 0, whatever is there, and at an unmapped
one with InstructionAccessFault, code 1; that they are the instruction variants is the spec's decision D5, the codes
D30 (R9, R320; log entries 10 and 22). Also rests on the spec's D14, that an unmapped address is what faults (log
entry 30); D17, that a trapping instruction has changed nothing else (log entry 33). -/
def Obligations.FailedFetchTraps : Prop :=
  ∀ s : State,
    (aligned4 s.pc = false → Traps (step s) s .instructionAddressMisaligned) ∧
    (aligned4 s.pc = true → regionOf s.pc = .unmapped → Traps (step s) s .instructionAccessFault) ∧
    Exception.instructionAddressMisaligned.code = 0 ∧ Exception.instructionAccessFault.code = 1

/-- A word that no rule decodes raises an illegal instruction, code 2, that carries it, at every privilege level, with
no other effect (R141): every word the decoder refuses and every word outside the opcode table, and by name the 16-bit
patterns, the floating-point, custom, OP-IMM-32 and OP-32 opcodes, and the all-zero and all-ones words. The opcode
numbers are G1's, but for 0x1B and 0x3B, which the spec only names and the model takes from the family (log entry 10).
Words fetched from the UART window are `FetchFromUartWindow`. Also rests on the spec's D6, that what the source does
not name, FENCE apart, does not decode (log entry 23); D33, how exactly the sub-fields are matched (log entry 43);
D34, the width of the shift check (log entry 43); D14, that ROM is readable (log entry 30). -/
def Obligations.UndecodableWordTraps : Prop :=
  ∀ s : State, aligned4 s.pc = true → backed s.pc →
    let w := s.mem.wordAt s.pc
    ((∃ why, decodeWord w = .error why) ∨ (∀ r ∈ opcodeTable, r.covers w = false) ∨ w.extractLsb' 0 2 ≠ 0b11#2 ∨
      w.extractLsb' 0 7 ∈ [0x07#7, 0x27#7, 0x43#7, 0x47#7, 0x4B#7, 0x4F#7, 0x53#7] ∨
      w.extractLsb' 0 7 ∈ [0x0B#7, 0x2B#7, 0x5B#7, 0x7B#7] ∨ w.extractLsb' 0 7 ∈ [0x1B#7, 0x3B#7] ∨
      w = 0x00000000#32 ∨ w = 0xFFFFFFFF#32) →
    Traps (step s) s (.illegalInstruction (some w)) ∧ (Exception.illegalInstruction (some w)).code = 2

/-- A fetch from the UART window reads four device bytes in ascending order and runs the word they make, whatever the
device answers (R9, R86, R88; the model's reading, log entry 9). That the device answers within the step is the
model's choice (R382, U7; log entry 8); the answers are free values (log entry 5). Also rests on the spec's D14, that
a read of the window is answered and never faults (log entry 30). -/
def Obligations.FetchFromUartWindow : Prop :=
  ∀ s : State, aligned4 s.pc = true → regionOf s.pc = .uart →
    let n := s.deviceDraws
    let w := wordOfBytes (Config.deviceRead n s.pc) (Config.deviceRead (n + 1) (s.pc + 1#32))
      (Config.deviceRead (n + 2) (s.pc + 2#32)) (Config.deviceRead (n + 3) (s.pc + 3#32))
    let seen : State := { s with
      deviceEvents := s.deviceEvents ++ [.read s.pc, .read (s.pc + 1#32), .read (s.pc + 2#32), .read (s.pc + 3#32)],
      deviceDraws := n + 4 }
    (∀ i, decodeWord w = .ok i → step s = exec i seen) ∧
    (∀ why, decodeWord w = .error why → Traps (step s) seen (.illegalInstruction (some w)))

/-- Every instruction ends in retire or in a trap (R11 to R13). In retire the pc has moved on by 4, unless the
instruction transfers control, and the retire counter has stepped or spent the just-loaded flag, unless a CSR
instruction wrote one of its halves. A trap is taken with the instruction's address, from a state in which the
registers, every CSR, the retire counter and its flag among them, and the level are as they were. The one exception is
MRET in Machine mode with `mstatus.MPP = 2`, which is refused (U3, D20; log entry 7). That accesses to the UART window
end within the step is the model's choice (R382, U7; log entry 8). Also rests on the spec's D17, that a trapping
instruction has changed no register, no CSR, flag or level (R24, R326) (log entry 33); D36, the same of a CSR
instruction (log entry 45); D25, that the step after a write of a counter half is the one suppressed (log entry 39).
-/
def Obligations.EveryInstructionRetiresOrTraps : Prop :=
  ∀ (i : Instr) (s : State),
    (∃ t : State, exec i s = .next t ∧ (transfersControl i = false → t.pc = s.pc + 4#32) ∧
      (CounterStepped s t ∨ CounterWritten i s t)) ∨
    (∃ (e : Exception) (u : State), exec i s = .next (takeException e s.pc u) ∧
      SameRegs s u ∧ u.csr = s.csr ∧ u.justLoaded = s.justLoaded ∧ u.priv = s.priv) ∨
    (i = .mret ∧ s.priv = .machine ∧ getMpp (s.csrAt csrMstatus) = 2#2 ∧ exec i s = .refused .mretReservedMpp)

/-! ## General registers -/

/-- The register file: index 0 reads 0 and drops what is written, in every state; any other index reads what was written
to it, and a write changes that one register and nothing else of the state (R21, R22). -/
def Obligations.RegisterFile : Prop :=
  ∀ (s : State) (r : RegIdx) (v : Word),
    s.readReg 0#5 = 0#32 ∧ s.writeReg 0#5 v = s ∧ (s.writeReg 0#5 v).readReg 0#5 = 0#32 ∧
    (r ≠ 0#5 → s.readReg r = s.regs[r.toNat]'r.isLt ∧ (s.writeReg r v).readReg r = v ∧
      (∀ q : RegIdx, q ≠ r → (s.writeReg r v).readReg q = s.readReg q) ∧
      s.writeReg r v = { s with regs := (s.writeReg r v).regs })

/-! ## Integer computation -/

/-- LUI and AUIPC (R162, R163; the operations are G2's). -/
def Obligations.UpperImmediateResults : Prop :=
  ∀ (rd : RegIdx) (imm : BitVec 20) (s : State),
    CompletesWith (exec (.lui rd imm) s) s rd (imm.setWidth 32 <<< 12) (s.pc + 4#32) ∧
    CompletesWith (exec (.auipc rd imm) s) s rd (s.pc + imm.setWidth 32 <<< 12) (s.pc + 4#32)

/-- The register-immediate instructions (R164 to R172; the operations are G2's). -/
def Obligations.RegisterImmediateResults : Prop :=
  ∀ (rd rs1 : RegIdx) (imm : BitVec 12) (shamt : BitVec 5) (s : State),
    let a := s.readReg rs1
    let b : Word := imm.signExtend 32
    CompletesWith (exec (.addi rd rs1 imm) s) s rd (a + b) (s.pc + 4#32) ∧
    CompletesWith (exec (.slti rd rs1 imm) s) s rd (if a.toInt < b.toInt then 1#32 else 0#32) (s.pc + 4#32) ∧
    CompletesWith (exec (.sltiu rd rs1 imm) s) s rd (if a.toNat < b.toNat then 1#32 else 0#32) (s.pc + 4#32) ∧
    CompletesWith (exec (.xori rd rs1 imm) s) s rd (a ^^^ b) (s.pc + 4#32) ∧
    CompletesWith (exec (.ori rd rs1 imm) s) s rd (a ||| b) (s.pc + 4#32) ∧
    CompletesWith (exec (.andi rd rs1 imm) s) s rd (a &&& b) (s.pc + 4#32) ∧
    CompletesWith (exec (.slli rd rs1 shamt) s) s rd (a <<< shamt) (s.pc + 4#32) ∧
    CompletesWith (exec (.srli rd rs1 shamt) s) s rd (a >>> shamt) (s.pc + 4#32) ∧
    CompletesWith (exec (.srai rd rs1 shamt) s) s rd (a.sshiftRight' shamt) (s.pc + 4#32)

/-- The register-register instructions: wrapping sums, shifts by the low 5 bits, comparisons to 0 or 1 (R161, R173 to
R182; the operations are G2's). -/
def Obligations.RegisterRegisterResults : Prop :=
  ∀ (rd rs1 rs2 : RegIdx) (s : State),
    let a := s.readReg rs1
    let b := s.readReg rs2
    CompletesWith (exec (.add rd rs1 rs2) s) s rd (BitVec.ofNat 32 (a.toNat + b.toNat)) (s.pc + 4#32) ∧
    CompletesWith (exec (.sub rd rs1 rs2) s) s rd (BitVec.ofInt 32 (a.toInt - b.toInt)) (s.pc + 4#32) ∧
    CompletesWith (exec (.sll rd rs1 rs2) s) s rd (a <<< (b.toNat % 32)) (s.pc + 4#32) ∧
    CompletesWith (exec (.slt rd rs1 rs2) s) s rd (if a.toInt < b.toInt then 1#32 else 0#32) (s.pc + 4#32) ∧
    CompletesWith (exec (.sltu rd rs1 rs2) s) s rd (if a.toNat < b.toNat then 1#32 else 0#32) (s.pc + 4#32) ∧
    CompletesWith (exec (.xor rd rs1 rs2) s) s rd (a ^^^ b) (s.pc + 4#32) ∧
    CompletesWith (exec (.srl rd rs1 rs2) s) s rd (a >>> (b.toNat % 32)) (s.pc + 4#32) ∧
    CompletesWith (exec (.sra rd rs1 rs2) s) s rd (a.sshiftRight (b.toNat % 32)) (s.pc + 4#32) ∧
    CompletesWith (exec (.or rd rs1 rs2) s) s rd (a ||| b) (s.pc + 4#32) ∧
    CompletesWith (exec (.and rd rs1 rs2) s) s rd (a &&& b) (s.pc + 4#32)

/-- The multiplies: the low half, and the high half of the exact 64-bit product for each reading of the operands (R201
to R204; the operations are G2's). -/
def Obligations.MultiplyResults : Prop :=
  ∀ (rd rs1 rs2 : RegIdx) (s : State),
    let a := s.readReg rs1
    let b := s.readReg rs2
    CompletesWith (exec (.mul rd rs1 rs2) s) s rd (a * b) (s.pc + 4#32) ∧
    CompletesWith (exec (.mulh rd rs1 rs2) s) s rd
      ((a.signExtend 64 * b.signExtend 64).extractLsb' 32 32) (s.pc + 4#32) ∧
    CompletesWith (exec (.mulhsu rd rs1 rs2) s) s rd
      ((a.signExtend 64 * b.setWidth 64).extractLsb' 32 32) (s.pc + 4#32) ∧
    CompletesWith (exec (.mulhu rd rs1 rs2) s) s rd
      ((a.setWidth 64 * b.setWidth 64).extractLsb' 32 32) (s.pc + 4#32)

/-- DIV, DIVU and REMU, with their words: by zero and at the overflow they have defined values and never trap (R205,
R206, R208; the encodings are G1's, the cases other than those corners G2's). -/
def Obligations.DivideResults : Prop :=
  ∀ (rd rs1 rs2 : RegIdx) (s : State),
    let a := s.readReg rs1
    let b := s.readReg rs2
    decodeWord (pack 0x01#7 rs2 rs1 0b100#3 rd 0x33#7) = .ok (.div rd rs1 rs2) ∧
    decodeWord (pack 0x01#7 rs2 rs1 0b101#3 rd 0x33#7) = .ok (.divu rd rs1 rs2) ∧
    decodeWord (pack 0x01#7 rs2 rs1 0b111#3 rd 0x33#7) = .ok (.remu rd rs1 rs2) ∧
    CompletesWith (exec (.div rd rs1 rs2) s) s rd
      (if b = 0#32 then 0xFFFFFFFF#32
       else if a = 0x80000000#32 ∧ b = 0xFFFFFFFF#32 then 0x80000000#32
       else BitVec.ofInt 32 (a.toInt.tdiv b.toInt)) (s.pc + 4#32) ∧
    CompletesWith (exec (.divu rd rs1 rs2) s) s rd (if b = 0#32 then 0xFFFFFFFF#32 else a / b) (s.pc + 4#32) ∧
    CompletesWith (exec (.remu rd rs1 rs2) s) s rd (if b = 0#32 then a else a % b) (s.pc + 4#32)

/-- REM: the dividend by zero, else the remainder with the dividend's sign, 0 at the overflow (R207; the overflow's 0
is the spec's decision D35). Also rests on the spec's G2, the case other than zero and the overflow, the dividend's
sign (R200's mark) (log entry 10). -/
def Obligations.RemainderResult : Prop :=
  ∀ (rd rs1 rs2 : RegIdx) (s : State),
    let a := s.readReg rs1
    let b := s.readReg rs2
    CompletesWith (exec (.rem rd rs1 rs2) s) s rd (if b = 0#32 then a else a.srem b) (s.pc + 4#32)

/-- Dividend = divisor times quotient plus remainder, in 32-bit wrapping arithmetic, for both readings and for every
operand, 0 and the overflow included (R200; the identity is marked general knowledge there). Also rests on the spec's
G2, the cases of the four instructions other than the stated corners (log entry 10); D35, the remainder at the
overflow (log entry 44). -/
def Obligations.DivisionIdentity : Prop :=
  ∀ (q r rs1 rs2 : RegIdx) (s : State), q ≠ 0#5 → r ≠ 0#5 →
    (∃ tq tr, exec (.div q rs1 rs2) s = .next tq ∧ exec (.rem r rs1 rs2) s = .next tr ∧
      s.readReg rs1 = s.readReg rs2 * tq.readReg q + tr.readReg r) ∧
    (∃ tq tr, exec (.divu q rs1 rs2) s = .next tq ∧ exec (.remu r rs1 rs2) s = .next tr ∧
      s.readReg rs1 = s.readReg rs2 * tq.readReg q + tr.readReg r)

/-! ## Loads, stores, FENCE -/

/-- Loads of bytes that memory holds, in DRAM or ROM: the value, extended, and nothing else changed; a halfword at any
address (R220 to R225; that odd halfwords are accepted is D13). Also rests on the spec's D14, that ROM is readable
(log entry 30); G2, the effective address (log entry 10). -/
def Obligations.LoadsFromMemory : Prop :=
  ∀ (rd rs1 : RegIdx) (imm : BitVec 12) (s : State),
    let a := loadAddress s rs1 imm
    (backed a → CompletesWith (exec (.lb rd rs1 imm) s) s rd ((s.mem.read a).signExtend 32) (s.pc + 4#32)) ∧
    (backed a → CompletesWith (exec (.lbu rd rs1 imm) s) s rd ((s.mem.read a).setWidth 32) (s.pc + 4#32)) ∧
    (backed a → backed (a + 1#32) →
      CompletesWith (exec (.lh rd rs1 imm) s) s rd ((s.mem.halfAt a).signExtend 32) (s.pc + 4#32)) ∧
    (backed a → backed (a + 1#32) →
      CompletesWith (exec (.lhu rd rs1 imm) s) s rd ((s.mem.halfAt a).setWidth 32) (s.pc + 4#32)) ∧
    (backed a → aligned4 a = true → CompletesWith (exec (.lw rd rs1 imm) s) s rd (s.mem.wordAt a) (s.pc + 4#32))

/-- Loads that fault: an address in no region, the low byte of a halfword first; a word at an address that is not a
multiple of 4, tested before anything is read. Nothing is written (R220 to R225; that an unmapped address is what
faults is D14). Also rests on the spec's D13, halfwords at any address as two byte accesses, odd ones included (R92,
R222, R225) (log entry 29); D17, that a trapping instruction has changed nothing else (log entry 33); G2, the
effective address (log entry 10). -/
def Obligations.FaultingLoads : Prop :=
  ∀ (rd rs1 : RegIdx) (imm : BitVec 12) (s : State),
    let a := loadAddress s rs1 imm
    (regionOf a = .unmapped → Traps (exec (.lb rd rs1 imm) s) s .loadAccessFault ∧
      Traps (exec (.lbu rd rs1 imm) s) s .loadAccessFault ∧ Traps (exec (.lh rd rs1 imm) s) s .loadAccessFault ∧
      Traps (exec (.lhu rd rs1 imm) s) s .loadAccessFault) ∧
    (backed a → regionOf (a + 1#32) = .unmapped → Traps (exec (.lh rd rs1 imm) s) s .loadAccessFault ∧
      Traps (exec (.lhu rd rs1 imm) s) s .loadAccessFault) ∧
    (aligned4 a = false → Traps (exec (.lw rd rs1 imm) s) s .loadAddressMisaligned) ∧
    (aligned4 a = true → regionOf a = .unmapped → Traps (exec (.lw rd rs1 imm) s) s .loadAccessFault)

/-- Stores to DRAM: the low bytes of the data register at the computed address, lowest byte first; every other byte,
and every register, unchanged; a reservation of a stored address is broken, any other kept (R226 to R229, R97; exact
equality is D15, odd halfwords D13). Also rests on the spec's G2, the effective address and the data register (log
entry 10). -/
def Obligations.StoresToDram : Prop :=
  ∀ (rs1 rs2 : RegIdx) (imm : BitVec 12) (s : State),
    let a := storeAddress s rs1 imm
    let v := s.readReg rs2
    (regionOf a = .dram → ∃ t, Retires (exec (.sb rs1 rs2 imm) s) s t (s.pc + 4#32) ∧
      StoresBytes a [v.extractLsb' 0 8] s t ∧ SameRegs s t ∧ SameDevice s t) ∧
    (regionOf a = .dram → regionOf (a + 1#32) = .dram → ∃ t, Retires (exec (.sh rs1 rs2 imm) s) s t (s.pc + 4#32) ∧
      StoresBytes a [v.extractLsb' 0 8, v.extractLsb' 8 8] s t ∧ SameRegs s t ∧ SameDevice s t) ∧
    (regionOf a = .dram → aligned4 a = true → ∃ t, Retires (exec (.sw rs1 rs2 imm) s) s t (s.pc + 4#32) ∧
      StoresBytes a [v.extractLsb' 0 8, v.extractLsb' 8 8, v.extractLsb' 16 8, v.extractLsb' 24 8] s t ∧
      SameRegs s t ∧ SameDevice s t)

/-- Stores that fault: ROM or an unmapped address; a misaligned word, tested before anything is written. Nothing is
stored (R226 to R229; that ROM and unmapped addresses fault is D14). Also rests on the spec's D13, that an odd
halfword address raises no misaligned exception (R93, R228) (log entry 29); D17, that a trapping instruction has
changed nothing else (log entry 33); G2, the effective address and the data register (log entry 10). -/
def Obligations.FaultingStores : Prop :=
  ∀ (rs1 rs2 : RegIdx) (imm : BitVec 12) (s : State),
    let a := storeAddress s rs1 imm
    (regionOf a = .rom ∨ regionOf a = .unmapped → Traps (exec (.sb rs1 rs2 imm) s) s .storeAmoAccessFault ∧
      Traps (exec (.sh rs1 rs2 imm) s) s .storeAmoAccessFault) ∧
    (aligned4 a = false → Traps (exec (.sw rs1 rs2 imm) s) s .storeAmoAddressMisaligned) ∧
    (aligned4 a = true → regionOf a = .rom ∨ regionOf a = .unmapped →
      Traps (exec (.sw rs1 rs2 imm) s) s .storeAmoAccessFault)

/-- A halfword store whose second byte faults has stored its first byte, in DRAM or at the device, and then takes the
trap, code 7, from that state: the byte stored, a reservation of its address broken, any other kept, and nothing else
changed (R93, R326, U6; the spec's own construction, D13, log entry 29; exact equality of the reserved address is D15,
log entry 31; the code is D30, log entry 10). That the device takes its byte within the step is the model's choice
(R382, U7; log entry 8). Also rests on the spec's D14, that an unmapped address is what faults, and that the window
accepts every write (log entry 30); D17, that nothing but the first byte is left behind (log entry 33); G2, the
effective address and the data register (log entry 10). -/
def Obligations.HalfwordStoreLeavesFirstByte : Prop :=
  ∀ (rs1 rs2 : RegIdx) (imm : BitVec 12) (s : State),
    let a := storeAddress s rs1 imm
    let b : Byte := (s.readReg rs2).extractLsb' 0 8
    regionOf (a + 1#32) = .unmapped →
    (regionOf a = .dram → ∃ u, exec (.sh rs1 rs2 imm) s = .next (takeException .storeAmoAccessFault s.pc u) ∧
      u = { s with mem := u.mem, reservation := u.reservation } ∧ StoresBytes a [b] s u) ∧
    (regionOf a = .uart → exec (.sh rs1 rs2 imm) s = .next (takeException .storeAmoAccessFault s.pc
      { s with deviceEvents := s.deviceEvents ++ [.write a b] })) ∧
    Exception.storeAmoAccessFault.code = 7

/-- Accesses to the UART window: a byte read is the device's next answer, whatever it is, and is seen by the device; a
byte write is an output event; a word is four bytes in ascending order; memory and the reservation are untouched (R88,
D14; the oracle is the model's free value, log entry 5). That every access ends within its step is the model's choice
(R382, U7; log entry 8). Also rests on the spec's G2, the effective address and the data register (log entry 10). -/
def Obligations.UartAccesses : Prop :=
  ∀ (rd rs1 rs2 : RegIdx) (imm : BitVec 12) (s : State),
    let a := loadAddress s rs1 imm
    let v := s.readReg rs2
    let n := s.deviceDraws
    regionOf a = .uart →
    (∃ t, Retires (exec (.lb rd rs1 imm) s) s t (s.pc + 4#32) ∧
      WritesReg rd ((Config.deviceRead n a).signExtend 32) s t ∧ SameMemory s t ∧ t.reservation = s.reservation ∧
      t.deviceEvents = s.deviceEvents ++ [.read a] ∧ t.deviceDraws = n + 1) ∧
    (∃ t, Retires (exec (.lbu rd rs1 imm) s) s t (s.pc + 4#32) ∧
      WritesReg rd ((Config.deviceRead n a).setWidth 32) s t ∧ SameMemory s t ∧ t.reservation = s.reservation ∧
      t.deviceEvents = s.deviceEvents ++ [.read a] ∧ t.deviceDraws = n + 1) ∧
    (∃ t, Retires (exec (.sb rs1 rs2 imm) s) s t (s.pc + 4#32) ∧ SameRegs s t ∧ SameMemory s t ∧
      t.reservation = s.reservation ∧ t.deviceEvents = s.deviceEvents ++ [.write a (v.extractLsb' 0 8)] ∧
      t.deviceDraws = n) ∧
    (aligned4 a = true →
      (∃ t, Retires (exec (.lw rd rs1 imm) s) s t (s.pc + 4#32) ∧
        WritesReg rd (wordOfBytes (Config.deviceRead n a) (Config.deviceRead (n + 1) (a + 1#32))
          (Config.deviceRead (n + 2) (a + 2#32)) (Config.deviceRead (n + 3) (a + 3#32))) s t ∧
        SameMemory s t ∧ t.reservation = s.reservation ∧ t.deviceDraws = n + 4 ∧
        t.deviceEvents = s.deviceEvents ++ [.read a, .read (a + 1#32), .read (a + 2#32), .read (a + 3#32)]) ∧
      (∃ t, Retires (exec (.sw rs1 rs2 imm) s) s t (s.pc + 4#32) ∧ SameRegs s t ∧ SameMemory s t ∧
        t.reservation = s.reservation ∧ t.deviceDraws = n ∧
        t.deviceEvents = s.deviceEvents ++ [.write a (v.extractLsb' 0 8), .write (a + 1#32) (v.extractLsb' 8 8),
          .write (a + 2#32) (v.extractLsb' 16 8), .write (a + 3#32) (v.extractLsb' 24 8)]))

/-- Halfword accesses to the UART window: two byte accesses, the low byte first; at the window's last byte the device
has seen the first access when the second faults (R92, R93, R326; R88; odd halfwords are D13). That every access ends
within its step is the model's choice (R382, U7; log entry 8); the answers are free values (log entry 5). The store's
fault is `HalfwordStoreLeavesFirstByte`. Also rests on the spec's D14, that the window never faults and an unmapped
address does (log entry 30); D17, that nothing but the device read is left behind (log entry 33); G2, the effective
address and the data register (log entry 10). -/
def Obligations.UartHalfwords : Prop :=
  ∀ (rd rs1 rs2 : RegIdx) (imm : BitVec 12) (s : State),
    let a := loadAddress s rs1 imm
    let v := s.readReg rs2
    let n := s.deviceDraws
    let h := halfOfBytes (Config.deviceRead n a) (Config.deviceRead (n + 1) (a + 1#32))
    let seen : State := { s with deviceEvents := s.deviceEvents ++ [.read a], deviceDraws := n + 1 }
    regionOf a = .uart →
    (regionOf (a + 1#32) = .uart →
      (∃ t, Retires (exec (.lh rd rs1 imm) s) s t (s.pc + 4#32) ∧ WritesReg rd (h.signExtend 32) s t ∧ SameMemory s t ∧
        t.reservation = s.reservation ∧ t.deviceDraws = n + 2 ∧
        t.deviceEvents = s.deviceEvents ++ [.read a, .read (a + 1#32)]) ∧
      (∃ t, Retires (exec (.lhu rd rs1 imm) s) s t (s.pc + 4#32) ∧ WritesReg rd (h.setWidth 32) s t ∧ SameMemory s t ∧
        t.reservation = s.reservation ∧ t.deviceDraws = n + 2 ∧
        t.deviceEvents = s.deviceEvents ++ [.read a, .read (a + 1#32)]) ∧
      (∃ t, Retires (exec (.sh rs1 rs2 imm) s) s t (s.pc + 4#32) ∧ SameRegs s t ∧ SameMemory s t ∧
        t.reservation = s.reservation ∧ t.deviceDraws = n ∧
        t.deviceEvents = s.deviceEvents ++ [.write a (v.extractLsb' 0 8), .write (a + 1#32) (v.extractLsb' 8 8)])) ∧
    (regionOf (a + 1#32) = .unmapped →
      Traps (exec (.lh rd rs1 imm) s) seen .loadAccessFault ∧ Traps (exec (.lhu rd rs1 imm) s) seen .loadAccessFault)

/-- Memory is little-endian for data and for fetch alike: after a word write, byte `k` of the word is at address
`a + k`, a halfword at either half is the corresponding bytes, and the word read and the fetch give it back (R90). -/
def Obligations.WordsAreLittleEndian : Prop :=
  ∀ (a w : Word) (s : State), aligned4 a = true → regionOf a = .dram →
    ∃ t, memWriteWord a w s = .ok () t ∧
      memReadByte a t = .ok (w.extractLsb' 0 8) t ∧ memReadByte (a + 1#32) t = .ok (w.extractLsb' 8 8) t ∧
      memReadByte (a + 2#32) t = .ok (w.extractLsb' 16 8) t ∧ memReadByte (a + 3#32) t = .ok (w.extractLsb' 24 8) t ∧
      memReadHalf a t = .ok (w.extractLsb' 0 16) t ∧ memReadHalf (a + 2#32) t = .ok (w.extractLsb' 16 16) t ∧
      memReadWord a t = .ok w t ∧ fetch a t = .ok w t

/-- FENCE, with any fields, and SRET, at every privilege level, only retire (R232, R313; that FENCE decodes is D6, that
SRET makes no check is D8). -/
def Obligations.FenceAndSretOnlyRetire : Prop :=
  ∀ (rd rs1 : RegIdx) (fm pred succ : BitVec 4) (s : State),
    CompletesWith (exec (.fence rd rs1 fm pred succ) s) s 0#5 0#32 (s.pc + 4#32) ∧
    CompletesWith (exec .sret s) s 0#5 0#32 (s.pc + 4#32)

/-! ## Control transfer -/

/-- Branches: the target when the condition holds, else the next instruction; nothing else changes, and neither way
traps, whatever the target's alignment (R240 to R246; the conditions other than BEQ's are G2's). -/
def Obligations.BranchResults : Prop :=
  ∀ (rs1 rs2 : RegIdx) (imm : BitVec 13) (s : State),
    let a := s.readReg rs1
    let b := s.readReg rs2
    let target := s.pc + imm.signExtend 32
    CompletesWith (exec (.beq rs1 rs2 imm) s) s 0#5 0#32 (if a = b then target else s.pc + 4#32) ∧
    CompletesWith (exec (.bne rs1 rs2 imm) s) s 0#5 0#32 (if a ≠ b then target else s.pc + 4#32) ∧
    CompletesWith (exec (.blt rs1 rs2 imm) s) s 0#5 0#32 (if a.toInt < b.toInt then target else s.pc + 4#32) ∧
    CompletesWith (exec (.bge rs1 rs2 imm) s) s 0#5 0#32 (if b.toInt ≤ a.toInt then target else s.pc + 4#32) ∧
    CompletesWith (exec (.bltu rs1 rs2 imm) s) s 0#5 0#32 (if a.toNat < b.toNat then target else s.pc + 4#32) ∧
    CompletesWith (exec (.bgeu rs1 rs2 imm) s) s 0#5 0#32 (if b.toNat ≤ a.toNat then target else s.pc + 4#32)

/-- JAL and JALR: with a target that is a multiple of 4 they link and jump; otherwise they trap and write nothing.
JALR's target has bit 0 cleared before the test (R247, R248; that the link register is not written is D17, the link
value general knowledge). -/
def Obligations.JumpResults : Prop :=
  ∀ (rd rs1 : RegIdx) (imm : BitVec 12) (off : BitVec 21) (s : State),
    let jal := s.pc + off.signExtend 32
    let jalr := (s.readReg rs1 + imm.signExtend 32) &&& ~~~1#32
    (jal.extractLsb' 0 2 = 0#2 → CompletesWith (exec (.jal rd off) s) s rd (s.pc + 4#32) jal) ∧
    (jal.extractLsb' 0 2 ≠ 0#2 → Traps (exec (.jal rd off) s) s .instructionAddressMisaligned) ∧
    (jalr.getLsbD 1 = false → CompletesWith (exec (.jalr rd rs1 imm) s) s rd (s.pc + 4#32) jalr) ∧
    (jalr.getLsbD 1 = true → Traps (exec (.jalr rd rs1 imm) s) s .instructionAddressMisaligned)

/-! ## Atomics -/

/-- LR.W of a word that memory holds: the word, the reservation of its address, and nothing else changed, whatever the
ordering bits and the `rs2` field (R260, R263). Also rests on the spec's D26, that the `rs2` field and the ordering
bits are ignored (log entry 40); D14, that ROM is readable (log entry 30). -/
def Obligations.LoadReservedResult : Prop :=
  ∀ (rd rs1 rs2 : RegIdx) (aq rl : Bool) (s : State),
    let a := s.readReg rs1
    aligned4 a = true → backed a →
    ∃ t, Retires (exec (.lrW rd rs1 rs2 aq rl) s) s t (s.pc + 4#32) ∧ WritesReg rd (s.mem.wordAt a) s t ∧
      t.reservation = some a ∧ SameMemory s t ∧ SameDevice s t

/-- SC.W, by its reservation test: it succeeds in DRAM and the UART window, stores, returns 0; a matching reservation
elsewhere makes it trap with the store fault, and a misaligned one with the misaligned fault (by the invariant of
`StepKeepsInvariant` no run holds one that is misaligned or unmapped); with no matching reservation it returns 1,
stores nothing and never traps, whatever the address. The reservation is none on every exit (R261; the faulting exit
is D16, the order of the tests D26). That the device takes its bytes within the step is the model's choice (R382, U7;
log entry 8). Also rests on the spec's D14, which addresses fault, and that the window does not (log entry 30); D17,
that a trapping SC.W writes no register (log entry 33). -/
def Obligations.StoreConditionalResult : Prop :=
  ∀ (rd rs1 rs2 : RegIdx) (aq rl : Bool) (s : State),
    let a := s.readReg rs1
    let v := s.readReg rs2
    (s.reservation = some a → aligned4 a = true → regionOf a = .dram →
      ∃ t, Retires (exec (.scW rd rs1 rs2 aq rl) s) s t (s.pc + 4#32) ∧ WritesReg rd 0#32 s t ∧
        StoresBytes a [v.extractLsb' 0 8, v.extractLsb' 8 8, v.extractLsb' 16 8, v.extractLsb' 24 8] s t ∧
        t.reservation = none ∧ SameDevice s t) ∧
    (s.reservation = some a → aligned4 a = true → regionOf a = .uart →
      ∃ t, Retires (exec (.scW rd rs1 rs2 aq rl) s) s t (s.pc + 4#32) ∧ WritesReg rd 0#32 s t ∧ SameMemory s t ∧
        t.reservation = none ∧ t.deviceDraws = s.deviceDraws ∧
        t.deviceEvents = s.deviceEvents ++ [.write a (v.extractLsb' 0 8), .write (a + 1#32) (v.extractLsb' 8 8),
          .write (a + 2#32) (v.extractLsb' 16 8), .write (a + 3#32) (v.extractLsb' 24 8)]) ∧
    (s.reservation = some a → aligned4 a = true → regionOf a = .rom ∨ regionOf a = .unmapped →
      exec (.scW rd rs1 rs2 aq rl) s = .next (takeException .storeAmoAccessFault s.pc { s with reservation := none })) ∧
    (s.reservation = some a → aligned4 a = false →
      exec (.scW rd rs1 rs2 aq rl) s =
        .next (takeException .storeAmoAddressMisaligned s.pc { s with reservation := none })) ∧
    (s.reservation ≠ some a →
      ∃ t, Retires (exec (.scW rd rs1 rs2 aq rl) s) s t (s.pc + 4#32) ∧ WritesReg rd 1#32 s t ∧ SameMemory s t ∧
        t.reservation = none ∧ SameDevice s t)

/-- An LR.W and then an SC.W to the same DRAM word: the SC.W succeeds, and a second SC.W fails and leaves memory alone
(R98's forward progress, R261). Also rests on the spec's D26, that the ordering bits are ignored, LR.W's `rs2` field
too (log entry 40). -/
def Obligations.LoadReservedStoreConditionalPair : Prop :=
  ∀ (x1 x2 x3 p v : RegIdx) (q1 q2 q3 : RegIdx) (aq rl : Bool) (s s1 s2 : State),
    x2 ≠ 0#5 → x3 ≠ 0#5 → x1 ≠ p → x2 ≠ p → aligned4 (s.readReg p) = true → regionOf (s.readReg p) = .dram →
    exec (.lrW x1 p q1 aq rl) s = .next s1 → exec (.scW x2 p v aq rl) s1 = .next s2 →
      s2.readReg x2 = 0#32 ∧ s2.mem.wordAt (s.readReg p) = s1.readReg v ∧
      ∃ s3, exec (.scW x3 p q2 aq rl) s2 = .next s3 ∧ s3.readReg x3 = 1#32 ∧ SameMemory s2 s3 ∧
        (q3 ≠ x3 → s3.readReg q3 = s2.readReg q3)

/-- The nine AMOs on a DRAM word: the old word to `x[rd]`, the function's value to memory, a reservation of the
address broken, any other kept (R262, R264 to R272; the functions are G2's, exact equality of the reserved address
D15). Also rests on the spec's D26, that the ordering bits are ignored (log entry 40). -/
def Obligations.AmoResults : Prop :=
  ∀ (op : RegIdx → RegIdx → RegIdx → Bool → Bool → Instr) (f : Word → Word → Word),
    (op, f) ∈ ([(.amoswapW, fun _ src => src), (.amoaddW, fun old src => old + src),
      (.amoxorW, fun old src => old ^^^ src), (.amoandW, fun old src => old &&& src),
      (.amoorW, fun old src => old ||| src),
      (.amominW, fun old src => if old.toInt < src.toInt then old else src),
      (.amomaxW, fun old src => if old.toInt > src.toInt then old else src),
      (.amominuW, fun old src => if old.toNat < src.toNat then old else src),
      (.amomaxuW, fun old src => if old.toNat > src.toNat then old else src)] :
      List ((RegIdx → RegIdx → RegIdx → Bool → Bool → Instr) × (Word → Word → Word))) →
    ∀ (rd rs1 rs2 : RegIdx) (aq rl : Bool) (s : State),
      let a := s.readReg rs1
      let v := f (s.mem.wordAt a) (s.readReg rs2)
      aligned4 a = true → regionOf a = .dram →
      ∃ t, Retires (exec (op rd rs1 rs2 aq rl) s) s t (s.pc + 4#32) ∧ WritesReg rd (s.mem.wordAt a) s t ∧
        StoresBytes a [v.extractLsb' 0 8, v.extractLsb' 8 8, v.extractLsb' 16 8, v.extractLsb' 24 8] s t ∧
        SameDevice s t

/-- LR.W and the AMOs on a word of the UART window: four device reads, and for an AMO four device writes after them;
the device's bytes are the old word, whatever they are; memory is untouched, and only LR.W touches the reservation
(R260, R262, R86 to R88; the AMOs' functions are G2's, the oracle log entry 5). That every access ends within the step
is the model's choice (R382, U7; log entry 8). Also rests on the spec's D14, that the window never faults (log entry
30); D26, that the ordering bits and LR.W's `rs2` field are ignored (log entry 40). -/
def Obligations.UartAtomics : Prop :=
  ∀ (rd rs1 rs2 : RegIdx) (aq rl : Bool) (s : State),
    let a := s.readReg rs1
    let src := s.readReg rs2
    let n := s.deviceDraws
    let old := wordOfBytes (Config.deviceRead n a) (Config.deviceRead (n + 1) (a + 1#32))
      (Config.deviceRead (n + 2) (a + 2#32)) (Config.deviceRead (n + 3) (a + 3#32))
    let reads : List DeviceEvent := [.read a, .read (a + 1#32), .read (a + 2#32), .read (a + 3#32)]
    let amo (o : Host.Outcome State Fault Refusal) (v : Word) : Prop :=
      ∃ t, Retires o s t (s.pc + 4#32) ∧ WritesReg rd old s t ∧ SameMemory s t ∧ t.reservation = s.reservation ∧
        t.deviceDraws = n + 4 ∧
        t.deviceEvents = s.deviceEvents ++ reads ++ [.write a (v.extractLsb' 0 8), .write (a + 1#32) (v.extractLsb' 8 8),
          .write (a + 2#32) (v.extractLsb' 16 8), .write (a + 3#32) (v.extractLsb' 24 8)]
    aligned4 a = true → regionOf a = .uart →
    (∃ t, Retires (exec (.lrW rd rs1 rs2 aq rl) s) s t (s.pc + 4#32) ∧ WritesReg rd old s t ∧ SameMemory s t ∧
      t.reservation = some a ∧ t.deviceDraws = n + 4 ∧ t.deviceEvents = s.deviceEvents ++ reads) ∧
    amo (exec (.amoswapW rd rs1 rs2 aq rl) s) src ∧ amo (exec (.amoaddW rd rs1 rs2 aq rl) s) (old + src) ∧
    amo (exec (.amoxorW rd rs1 rs2 aq rl) s) (old ^^^ src) ∧ amo (exec (.amoandW rd rs1 rs2 aq rl) s) (old &&& src) ∧
    amo (exec (.amoorW rd rs1 rs2 aq rl) s) (old ||| src) ∧
    amo (exec (.amominW rd rs1 rs2 aq rl) s) (if old.toInt < src.toInt then old else src) ∧
    amo (exec (.amomaxW rd rs1 rs2 aq rl) s) (if old.toInt > src.toInt then old else src) ∧
    amo (exec (.amominuW rd rs1 rs2 aq rl) s) (if old.toNat < src.toNat then old else src) ∧
    amo (exec (.amomaxuW rd rs1 rs2 aq rl) s) (if old.toNat > src.toNat then old else src)

/-- LR.W and the AMOs that trap: a misaligned address and an unmapped one by their read, with the load kinds, and an
AMO on ROM by its write; nothing is changed, the reservation included (R260, R262; the kinds are D16). Also rests on
the spec's D14, that an unmapped address is what faults and that ROM rejects writes (log entry 30); D17, that a
trapping instruction has changed nothing else (log entry 33); D26, that the ordering bits and LR.W's `rs2` field are
ignored (log entry 40). -/
def Obligations.FaultingAtomics : Prop :=
  ∀ (op : RegIdx → RegIdx → RegIdx → Bool → Bool → Instr),
    op ∈ ([.lrW, .amoswapW, .amoaddW, .amoxorW, .amoandW, .amoorW, .amominW, .amomaxW, .amominuW, .amomaxuW] :
      List (RegIdx → RegIdx → RegIdx → Bool → Bool → Instr)) →
    ∀ (rd rs1 rs2 : RegIdx) (aq rl : Bool) (s : State),
      let a := s.readReg rs1
      (aligned4 a = false → Traps (exec (op rd rs1 rs2 aq rl) s) s .loadAddressMisaligned) ∧
      (aligned4 a = true → regionOf a = .unmapped → Traps (exec (op rd rs1 rs2 aq rl) s) s .loadAccessFault) ∧
      (op rd rs1 rs2 aq rl ≠ .lrW rd rs1 rs2 aq rl → aligned4 a = true → regionOf a = .rom →
        Traps (exec (op rd rs1 rs2 aq rl) s) s .storeAmoAccessFault)

/-! ## CSRs -/

/-- The read transforms (R34; `tselect` is D32, the masks are parameters D11, D12, the index numbers G3's, log entry
10). Also rests on the spec's D23, that every other index is plain storage (log entry 37); D24, the counters among
them (log entry 38). -/
def Obligations.CsrReadTransforms : Prop :=
  ∀ s : State,
    s.csrReadRaw 0x300#12 = s.csrAt 0x300#12 ∧
    s.csrReadRaw 0x100#12 = s.csrAt 0x300#12 &&& s.params.sstatusMask ∧
    s.csrReadRaw 0x344#12 = s.csrAt 0x344#12 &&& s.params.mipMask ∧
    s.csrReadRaw 0x304#12 = s.csrAt 0x304#12 &&& s.params.mieMask ∧
    s.csrReadRaw 0x7A0#12 = 0xFFFFFFFF#32 ∧
    ∀ i : CsrIdx, i ∉ [0x300#12, 0x100#12, 0x344#12, 0x304#12, 0x7A0#12] → s.csrReadRaw i = s.csrAt i

/-- The write transforms: what each write stores, that it stores nowhere else, and when it sets the just-loaded flag
(R36; the `sstatus` write is D10, `mepc` alone D31, the index numbers are G3's, log entry 10). Also rests on the
spec's D12, that `mip` and `mie` store all bits (log entry 28); D22, that `mstatus` does (log entry 36); D23, that
every other index is plain storage (log entry 37). -/
def Obligations.CsrWriteTransforms : Prop :=
  ∀ (s : State) (i : CsrIdx) (v : Word),
    let t := s.csrWriteRaw i v
    (∀ j : CsrIdx, t.csrAt j =
      if i = 0x100#12 then
        (if j = 0x300#12 then (s.csrAt 0x300#12 &&& ~~~s.params.sstatusMask) ||| (v &&& s.params.sstatusMask)
         else s.csrAt j)
      else if j = i then (if i = 0x341#12 then v &&& 0xFFFFFFFC#32 else v)
      else s.csrAt j) ∧
    (t.justLoaded = true ↔ s.justLoaded = true ∨ i = 0xB02#12 ∨ i = 0xB82#12) ∧
    t = { s with csr := t.csr, justLoaded := t.justLoaded }

/-- A field of `mstatus` written through the bank reads back, and every other field, and every other CSR, is unchanged
(R41; that no bit is legalised is D22, the field positions are G4's, log entry 10). -/
def Obligations.MstatusFieldsRoundTrip : Prop :=
  ∀ (s : State) (f : MstatusField) (v : BitVec f.width),
    let t := s.csrWriteRaw csrMstatus (f.set (s.csrReadRaw csrMstatus) v)
    f.get (t.csrReadRaw csrMstatus) = v ∧
    (∀ g : MstatusField, g ≠ f → g.get (t.csrReadRaw csrMstatus) = g.get (s.csrReadRaw csrMstatus)) ∧
    (∀ j : CsrIdx, j ≠ csrMstatus → t.csrAt j = s.csrAt j)

/-- `sstatus` is a masked view of `mstatus`: what is written through it is read through it, under the mask, and the bits
of `mstatus` outside the mask are kept, for every mask (R42; the write is D10). -/
def Obligations.SstatusIsAViewOfMstatus : Prop :=
  ∀ (s : State) (v : Word),
    let t := s.csrWriteRaw csrSstatus v
    t.csrReadRaw csrSstatus = v &&& s.params.sstatusMask ∧
    t.csrAt csrMstatus &&& ~~~s.params.sstatusMask = s.csrAt csrMstatus &&& ~~~s.params.sstatusMask

/-- The six CSR instructions where they are allowed: the old value to `x[rd]`, the new value written, by index tier
and read-only mark; no write when the modifying field is 0, whatever the index's mark (R290 to R297; the field test is
D9, the order D36). Also rests on the spec's D1, which index bits are the tier and the mark (log entry 20); D2, tier 2
compared as a number (log entry 21); D10, the `sstatus` write (log entry 27); D31, that `mepc` alone clears bits (log
entry 41); D23, that every index exists (log entry 37); D25, which counter step is suppressed (log entry 39); G3, the
index numbers (log entry 10). -/
def Obligations.CsrInstructionResults : Prop :=
  ∀ (rd rs1 : RegIdx) (uimm : BitVec 5) (csr : CsrIdx) (s : State), csrTier csr ≤ s.priv.level →
    let old := s.csrReadRaw csr
    let x := s.readReg rs1
    let z : Word := uimm.setWidth 32
    (csrReadOnly csr = false →
      CsrAccessed (exec (.csrrw rd rs1 csr) s) s rd old csr (some x) ∧
      CsrAccessed (exec (.csrrwi rd uimm csr) s) s rd old csr (some z)) ∧
    (rs1 ≠ 0#5 → csrReadOnly csr = false →
      CsrAccessed (exec (.csrrs rd rs1 csr) s) s rd old csr (some (old ||| x)) ∧
      CsrAccessed (exec (.csrrc rd rs1 csr) s) s rd old csr (some (old &&& ~~~x))) ∧
    (uimm ≠ 0#5 → csrReadOnly csr = false →
      CsrAccessed (exec (.csrrsi rd uimm csr) s) s rd old csr (some (old ||| z)) ∧
      CsrAccessed (exec (.csrrci rd uimm csr) s) s rd old csr (some (old &&& ~~~z))) ∧
    (rs1 = 0#5 →
      CsrAccessed (exec (.csrrs rd rs1 csr) s) s rd old csr none ∧
      CsrAccessed (exec (.csrrc rd rs1 csr) s) s rd old csr none) ∧
    (uimm = 0#5 →
      CsrAccessed (exec (.csrrsi rd uimm csr) s) s rd old csr none ∧
      CsrAccessed (exec (.csrrci rd uimm csr) s) s rd old csr none)

/-- The six CSR instructions where they fault: below the index's tier, or writing a read-only index; nothing is
changed (R297; the tier's bits are D1, the field test D9, no effect on a fault D36). Also rests on the spec's D2, tier
2 compared as a number (log entry 21). -/
def Obligations.CsrInstructionFaults : Prop :=
  ∀ (rd rs1 : RegIdx) (uimm : BitVec 5) (csr : CsrIdx) (s : State),
    let low := s.priv.level < (csr.extractLsb' 8 2).toNat
    let ro := csr.extractLsb' 10 2 = 3#2
    (low ∨ ro → Traps (exec (.csrrw rd rs1 csr) s) s (.illegalInstruction none) ∧
      Traps (exec (.csrrwi rd uimm csr) s) s (.illegalInstruction none)) ∧
    (low ∨ (ro ∧ rs1 ≠ 0#5) → Traps (exec (.csrrs rd rs1 csr) s) s (.illegalInstruction none) ∧
      Traps (exec (.csrrc rd rs1 csr) s) s (.illegalInstruction none)) ∧
    (low ∨ (ro ∧ uimm ≠ 0#5) → Traps (exec (.csrrsi rd uimm csr) s) s (.illegalInstruction none) ∧
      Traps (exec (.csrrci rd uimm csr) s) s (.illegalInstruction none))

/-- The checked write, for every index and level: it fails with an illegal instruction and no effect when the level is
below the tier or the index is read-only, and otherwise writes (R35; the property of §8). It holds whichever bits
`csrTier` and `csrReadOnly` read: which those are is no part of it (D1, log entry 20). -/
def Obligations.CheckedCsrWrite : Prop :=
  ∀ (i : CsrIdx) (v : Word) (s : State),
    (csrReadOnly i = true ∨ s.priv.level < csrTier i ↔ csrWrite i v s = .raise (.illegalInstruction none) s) ∧
    (csrReadOnly i = false → csrTier i ≤ s.priv.level → csrWrite i v s = .ok () (s.csrWriteRaw i v))

/-- The retire counter's step: 64 bits over two words, wrapping, one step suppressed by the just-loaded flag, which is
consumed; nothing else changes (R58; the index numbers are G3's, when the flag is consumed D25). -/
def Obligations.RetireCounterStep : Prop :=
  ∀ s : State,
    let t := s.incrementRetireCounter
    let count (u : State) : Nat := (u.csrAt 0xB82#12).toNat * 2 ^ 32 + (u.csrAt 0xB02#12).toNat
    t.justLoaded = false ∧
    (s.justLoaded = true → t = { s with justLoaded := false }) ∧
    (s.justLoaded = false → count t = (count s + 1) % 2 ^ 64) ∧
    (∀ i : CsrIdx, i ≠ 0xB02#12 → i ≠ 0xB82#12 → t.csrAt i = s.csrAt i) ∧
    t = { s with csr := t.csr, justLoaded := t.justLoaded }

/-! ## Exceptions and privilege -/

/-- Trap entry, read from outside: what it saves, where it goes, and all that it leaves alone, for every exception and
every state, with the cause codes of R320's table (R330, R333; the cleared bits of `mepc` are the spec's decision D19,
those of the vector's base D18; the codes other than 2, 3, 8, 9 and 11 are D30, log entry 10). Also rests on the
spec's G3, the index numbers (log entry 10); G4, the positions in `mstatus` (log entry 10). -/
def Obligations.TrapEntry : Prop :=
  (∀ (e : Exception) (pc0 : Word) (s : State), TrapEntered e pc0 s (takeException e pc0 s)) ∧
  ∀ w : Option Word, ∀ p ∈ ([(.instructionAddressMisaligned, 0), (.instructionAccessFault, 1),
      (.illegalInstruction w, 2), (.breakpoint, 3), (.loadAddressMisaligned, 4), (.loadAccessFault, 5),
      (.storeAmoAddressMisaligned, 6), (.storeAmoAccessFault, 7), (.environmentCallFromUMode, 8),
      (.environmentCallFromSMode, 9), (.environmentCallFromMMode, 11), (.instructionPageFault, 12), (.loadPageFault, 13),
      (.storeAmoPageFault, 15), (.doubleTrap, 16), (.softwareCheck, 18), (.hardwareError, 19)] : List (Exception × Nat)),
    p.1.code = p.2

/-- A handler's address is always a multiple of 4 (R332; the base is D18). -/
def Obligations.HandlerAddressAligned : Prop :=
  ∀ (e : Exception) (pc0 : Word) (s : State), (takeException e pc0 s).pc.extractLsb' 0 2 = 0#2

/-- ECALL raises the environment call of its level, codes 8, 9 and 11, and EBREAK a breakpoint, code 3, at every level;
neither retires or changes anything before the trap (R310, R311; the two words are G1's, log entry 10). -/
def Obligations.EnvironmentTraps : Prop :=
  ∀ s : State,
    decodeWord 0x00000073#32 = .ok .ecall ∧ decodeWord 0x00100073#32 = .ok .ebreak ∧
    (s.priv = .user → Traps (exec .ecall s) s .environmentCallFromUMode) ∧
    (s.priv = .supervisor → Traps (exec .ecall s) s .environmentCallFromSMode) ∧
    (s.priv = .machine → Traps (exec .ecall s) s .environmentCallFromMMode) ∧
    Traps (exec .ebreak s) s .breakpoint ∧
    Exception.environmentCallFromUMode.code = 8 ∧ Exception.environmentCallFromSMode.code = 9 ∧
    Exception.environmentCallFromMMode.code = 11 ∧ Exception.breakpoint.code = 3

/-- MRET in Machine mode, MPP naming a level: the level, the pc, the four fields of `mstatus`, and nothing else (R312;
that the pc becomes `mepc` is D7). Also rests on the spec's G3, the index numbers (log entry 10); G4, the positions in
`mstatus` (log entry 10). -/
def Obligations.MretReturns : Prop :=
  ∀ (s : State) (p : Priv), s.priv = .machine → getMpp (s.csrAt csrMstatus) = p.bits →
    ∃ t, exec .mret s = .next t ∧ t.priv = p ∧ t.pc = s.csrAt csrMepc ∧
      MstatusField.get .mie (t.csrAt csrMstatus) = MstatusField.get .mpie (s.csrAt csrMstatus) ∧
      MstatusField.get .mpie (t.csrAt csrMstatus) = 1#1 ∧
      getMpp (t.csrAt csrMstatus) = 0#2 ∧
      MstatusField.get .mprv (t.csrAt csrMstatus) =
        (if p = .machine then MstatusField.get .mprv (s.csrAt csrMstatus) else 0#1) ∧
      (∀ f : MstatusField, f ∉ [.mie, .mpie, .mpp, .mprv] → f.get (t.csrAt csrMstatus) = f.get (s.csrAt csrMstatus)) ∧
      (∀ j : CsrIdx, j ∉ [csrMstatus, csrMinstret, csrMinstreth] → t.csrAt j = s.csrAt j) ∧
      CounterStepped s t ∧ SameRegs s t ∧ t.reservation = s.reservation ∧ SameMemory s t ∧ SameDevice s t ∧
      t.params = s.params

/-- MRET below Machine mode traps as an illegal instruction and changes nothing else; in Machine mode with MPP = 2 it is
refused (R312; the check is D8, the refusal D20 and log entry 7). -/
def Obligations.MretTrapsOrIsRefused : Prop :=
  ∀ s : State,
    (s.priv ≠ .machine → Traps (exec .mret s) s (.illegalInstruction none)) ∧
    (s.priv = .machine → getMpp (s.csrAt csrMstatus) = 2#2 → exec .mret s = .refused .mretReservedMpp)

/-- A trap and the MRET that follows restore the level, MIE and the pc, and every register: the round trip of trap
entry and return, from any level (R330, R312, R335; the pc is D7's). Also rests on the spec's G4, the positions in
`mstatus` (log entry 10). -/
def Obligations.TrapThenMretRestores : Prop :=
  ∀ (e : Exception) (s : State), s.pc.extractLsb' 0 2 = 0#2 →
    ∃ t, exec .mret (takeException e s.pc s) = .next t ∧ t.priv = s.priv ∧ t.pc = s.pc ∧
      MstatusField.get .mie (t.csrAt csrMstatus) = MstatusField.get .mie (s.csrAt csrMstatus) ∧ SameRegs s t ∧
      SameMemory s t ∧ t.reservation = s.reservation

/-- Reset enters Machine; a trap enters Machine from any mode; MRET enters the mode held in MPP; nothing else changes
the privilege level (R346). -/
def Obligations.PrivilegeChanges : Prop :=
  State.reset.priv = .machine ∧
  (∀ (e : Exception) (pc0 : Word) (s : State), (takeException e pc0 s).priv = .machine) ∧
  (∀ s t : State, exec .mret s = .next t → s.priv = .machine → t.priv.bits = getMpp (s.csrAt csrMstatus)) ∧
  (∀ s t : State, step s = .next t → t.priv = s.priv ∨ (∃ e u, t = takeException e s.pc u) ∨
    ∃ w u, fetch s.pc s = .ok w u ∧ decodeWord w = .ok .mret)

/-- Below an index's tier no instruction changes that CSR and stays in its mode, but for the retire counter, which
every completed instruction steps, and Supervisor's `sstatus` view, which reaches the bits of `mstatus` under the mask
alone; a trap, the other way, enters Machine mode (R31, R35, R42, R345). Also rests on the spec's D1, which index bits
are the tier (log entry 20); D2, tier 2 compared as a number (log entry 21); D10, the `sstatus` write (log entry 27);
G3, the index numbers (log entry 10). -/
def Obligations.LowerModesCannotChangeHigherCsrs : Prop :=
  ∀ (i : Instr) (s t : State) (j : CsrIdx), exec i s = .next t → t.priv = s.priv → s.priv.level < csrTier j →
    j ≠ csrMinstret → j ≠ csrMinstreth →
    t.csrAt j = s.csrAt j ∨
      (j = csrMstatus ∧ s.priv = .supervisor ∧
        t.csrAt j &&& ~~~s.params.sstatusMask = s.csrAt j &&& ~~~s.params.sstatusMask)

/-- The instructions other than ECALL, MRET and the CSR instructions do the same at every privilege level: they retire
at both of two levels or trap at both with the same exception, and the states differ in the level alone (R345, R314).
That accesses to the UART window end within the step is the model's choice (R382, U7; log entry 8). Also rests on the
spec's D6, that FENCE is one of them (R314) (log entry 23); D8, that SRET makes no check (log entry 25); D28, that no
control such as MPRV has an effect (log entry 14). -/
def Obligations.OtherInstructionsIgnoreTheMode : Prop :=
  ∀ (i : Instr) (s : State) (p : Priv), modeSensitive i = false →
    (∃ u : State, exec i s = .next u.retire ∧ exec i (s.setPriv p) = .next (u.setPriv p).retire) ∨
    (∃ (e : Exception) (u : State), exec i s = .next (takeException e s.pc u) ∧
      exec i (s.setPriv p) = .next (takeException e s.pc (u.setPriv p)))

/-- With `mtvec` 0 and the pc 0, both as after reset's first trap, the machine traps with InstructionAccessFault for
ever (R336, R375, U11: derived in the spec; that exception is D5, its code 1 D30, log entries 22 and 10). Also rests
on the spec's D14, that an unmapped address is what faults (log entry 30). -/
def Obligations.UnsetVectorTrapsForEver : Prop :=
  ∀ (s : State) (n : Nat), s.pc = 0#32 → s.csrAt csrMtvec = 0#32 →
    ∃ t, Host.Core.run core n s = .next t ∧ t.pc = 0#32 ∧ t.csrAt csrMtvec = 0#32 ∧
      (0 < n → t.csrAt csrMcause = 1#32 ∧ t.csrAt csrMepc = 0#32 ∧ t.csrAt csrMtval = 0#32 ∧ t.priv = .machine) ∧
      t.retireCount = s.retireCount ∧ SameRegs s t ∧ SameMemory s t

/-! ## Frames of every instruction, and invariants -/

/-- Every instruction, completed or trapped, writes at most its own `rd` (R24). Also rests on the spec's D17, that a
trapping instruction writes no register (log entry 33). -/
def Obligations.OnlyTheDestinationRegisterChanges : Prop :=
  ∀ (i : Instr) (s t : State) (r : RegIdx), exec i s = .next t → destination i ≠ some r →
    t.readReg r = s.readReg r

/-- Only the stores, SC.W and the AMOs change memory; and no step of any kind changes a byte outside DRAM, ROM in
particular (R85, R226; that ROM rejects writes is D14). -/
def Obligations.OnlyStoresChangeMemory : Prop :=
  (∀ (i : Instr) (s t : State), exec i s = .next t → storesMemory i = false → SameMemory s t) ∧
  (∀ (s t : State) (b : Word), step s = .next t → regionOf b ≠ .dram → t.mem.read b = s.mem.read b)

/-- A reservation is made by LR.W alone, and ended by LR.W, SC.W and stores to DRAM alone: every other instruction,
completed or trapped, keeps it, and a store or an AMO keeps it or clears it (R60, R98: derived in the spec). Also
rests on the spec's D15, which byte writes break a reservation (log entry 31); D16, that a faulting SC.W clears it and
a faulting LR.W keeps it (log entry 32). -/
def Obligations.ReservationChanges : Prop :=
  ∀ (i : Instr) (s t : State), exec i s = .next t →
    (storesMemory i = false → (∀ rd rs1 rs2 aq rl, i ≠ .lrW rd rs1 rs2 aq rl) → t.reservation = s.reservation) ∧
    (storesMemory i = true → t.reservation = s.reservation ∨ t.reservation = none) ∧
    (∀ rd rs1 rs2 aq rl, i = .scW rd rs1 rs2 aq rl → t.reservation = none)

/-- Every step keeps the invariant: x0 holds 0, memory and the CSR bank are canonical and list only what exists,
`mepc` is a multiple of 4, the read-only CSRs hold 0, the pc is even, a reservation is an aligned readable address.
Also rests on the spec's D10, that `sstatus` has no storage (log entry 27); D16, that LR.W reserves only what it could
read (log entry 32); D19, that trap entry clears the low bits of `mepc` (log entry 35); D24, that the read-only
counters never count (log entry 38); D31, that a write clears them (log entry 41). -/
def Obligations.StepKeepsInvariant : Prop :=
  ∀ s t : State, s.Inv → step s = .next t → t.Inv

/-- The invariant holds after reset. -/
def Obligations.ResetMeetsInvariant : Prop := State.reset.Inv

/-- Reset, for any RESET_PC, image and masks: Machine mode, which the source states; registers, CSRs, flag and
reservation at the values of R70, the spec's decision D3 (log entry 2); what the transforms then read (R371). Also
rests on the spec's D32, that `tselect` is the register of all ones (log entry 42). -/
def Obligations.ResetValues : Prop :=
  ∀ (pc : Word) (image : Memory) (params : Params),
    let s := State.resetWith pc image params
    s.priv = .machine ∧ s.pc = pc ∧ (∀ r, s.readReg r = 0#32) ∧ (∀ i, s.csrAt i = 0#32) ∧ s.justLoaded = false ∧
    s.reservation = none ∧ s.mem = image ∧ s.params = params ∧
    s.csrReadRaw csrSstatus = 0#32 ∧ s.csrReadRaw csrMip = 0#32 ∧ s.csrReadRaw csrMie = 0#32 ∧
    s.csrReadRaw csrTselect = 0xFFFFFFFF#32 ∧ s.retireCount = 0#64
end

