-- ==== Sys2Proof/Laws/Cells.lean ====
section
/-! SUPPORT. Sparse contents: a write is read back, leaves every other key, and keeps the canonical form. -/

namespace Sys2Proof.Machine

variable {α : Type} (d : α)

theorem Cells.read_erase_self (l : List (Nat × α)) (a : Nat) : Cells.read d (Cells.erase l a) a = d := by
  induction l with
  | nil => rfl
  | cons c t ih => obtain ⟨k, v⟩ := c; by_cases h : a = k <;> simp [Cells.erase, Cells.read, h, ih] ; exact h ▸ ih

theorem Cells.read_erase_ne (l : List (Nat × α)) {a b : Nat} (h : b ≠ a) :
    Cells.read d (Cells.erase l a) b = Cells.read d l b := by
  induction l with
  | nil => rfl
  | cons c t ih =>
    obtain ⟨k, v⟩ := c
    by_cases hk : a = k
    · have : b ≠ k := fun e => h (e.trans hk.symm)
      simp [Cells.erase, Cells.read, hk, this]; exact hk ▸ ih
    · simp [Cells.erase, Cells.read, hk, ih]

theorem Cells.read_insert (l : List (Nat × α)) (a b : Nat) (x : α) (fresh : Cells.erase l a = l) :
    Cells.read d (Cells.insert l a x) b = if b = a then x else Cells.read d l b := by
  induction l with
  | nil => simp [Cells.insert, Cells.read]
  | cons c t ih =>
    obtain ⟨k, v⟩ := c
    have len : ∀ m : List (Nat × α), (Cells.erase m a).length ≤ m.length := by
      intro m; induction m with
      | nil => exact le_rfl
      | cons c m ih => obtain ⟨k, v⟩ := c; simp only [Cells.erase]; split <;> simp <;> omega
    have hk : a ≠ k := by
      rintro rfl
      have := len t
      rw [Cells.erase, if_pos rfl] at fresh
      have := congrArg List.length fresh
      simp at this; omega
    rw [Cells.erase, if_neg hk, List.cons.injEq] at fresh
    rw [Cells.insert]
    split
    · simp [Cells.read]
    · simp only [Cells.read, ih fresh.2]
      split <;> split <;> simp_all

theorem Cells.erase_erase (l : List (Nat × α)) (a : Nat) : Cells.erase (Cells.erase l a) a = Cells.erase l a := by
  induction l with
  | nil => rfl
  | cons c t ih => obtain ⟨k, v⟩ := c; by_cases h : a = k <;> simp [Cells.erase, h]; · exact h ▸ ih
                   · exact ih

/-- Reading after a write, in any contents. -/
theorem Cells.read_write [DecidableEq α] (l : List (Nat × α)) (a b : Nat) (x : α) :
    Cells.read d (Cells.write d l a x) b = if b = a then x else Cells.read d l b := by
  unfold Cells.write
  split
  · rename_i hx
    split
    · rename_i hb; rw [hb, hx, Cells.read_erase_self]
    · rename_i hb; exact Cells.read_erase_ne d l hb
  · rw [Cells.read_insert d _ a b x (Cells.erase_erase l a)]
    split
    · rfl
    · rename_i hb; exact Cells.read_erase_ne d l hb

theorem Cells.all_erase {p : Nat × α → Bool} {l : List (Nat × α)} (h : l.all p = true) (a : Nat) :
    (Cells.erase l a).all p = true := by
  induction l with
  | nil => rfl
  | cons c t ih =>
    obtain ⟨k, v⟩ := c
    simp only [List.all_cons, Bool.and_eq_true] at h
    rw [Cells.erase]; split
    · exact ih h.2
    · simp only [List.all_cons, Bool.and_eq_true]; exact ⟨h.1, ih h.2⟩

theorem Cells.all_insert {p : Nat × α → Bool} {l : List (Nat × α)} (h : l.all p = true) {a : Nat} {x : α}
    (hx : p (a, x) = true) : (Cells.insert l a x).all p = true := by
  induction l with
  | nil => simp [Cells.insert, hx]
  | cons c t ih =>
    obtain ⟨k, v⟩ := c
    rw [Cells.insert]; split
    · rw [List.all_cons, hx, h]; rfl
    · simp only [List.all_cons, Bool.and_eq_true] at h ⊢; exact ⟨h.1, ih h.2⟩

/-- A property of all entries is kept by a write whose own entry has it. -/
theorem Cells.all_write [DecidableEq α] {p : Nat × α → Bool} {l : List (Nat × α)} (h : l.all p = true) {a : Nat} {x : α}
    (hx : p (a, x) = true) : (Cells.write d l a x).all p = true := by
  unfold Cells.write; split
  · exact Cells.all_erase h a
  · exact Cells.all_insert (Cells.all_erase h a) hx

theorem Cells.canonical_erase [DecidableEq α] {l : List (Nat × α)} (h : Cells.canonical d l = true) (a : Nat) :
    Cells.canonical d (Cells.erase l a) = true := by
  induction l with
  | nil => rfl
  | cons c t ih =>
    obtain ⟨k, v⟩ := c
    simp only [Cells.canonical, Bool.and_eq_true] at h
    rw [Cells.erase]; split
    · exact ih h.2
    · simp only [Cells.canonical, Bool.and_eq_true]; exact ⟨⟨h.1.1, Cells.all_erase h.1.2 a⟩, ih h.2⟩

theorem Cells.canonical_insert [DecidableEq α] {l : List (Nat × α)} (h : Cells.canonical d l = true) {a : Nat} {x : α} (hx : x ≠ d)
    (fresh : l.all (fun c => decide (c.1 ≠ a)) = true) : Cells.canonical d (Cells.insert l a x) = true := by
  induction l with
  | nil => simp [Cells.insert, Cells.canonical, hx]
  | cons c t ih =>
    obtain ⟨k, v⟩ := c
    have hc := h
    simp only [Cells.canonical, Bool.and_eq_true] at h
    simp only [List.all_cons, Bool.and_eq_true, decide_eq_true_eq] at fresh
    rw [Cells.insert]; split
    · rename_i hak
      rw [Cells.canonical, hc, List.all_cons]
      have later : t.all (fun c => decide (a < c.1)) = true := by
        rw [List.all_eq_true]
        intro c hc; have := List.all_eq_true.mp h.1.2 c hc; simp at this ⊢; omega
      simp [hx, hak, later]
    · rename_i hak
      simp only [Cells.canonical, Bool.and_eq_true]
      refine ⟨⟨h.1.1, Cells.all_insert h.1.2 ?_⟩, ih h.2 fresh.2⟩
      have := fresh.1; simp; omega

theorem Cells.fresh_erase (l : List (Nat × α)) (a : Nat) :
    (Cells.erase l a).all (fun c => decide (c.1 ≠ a)) = true := by
  induction l with
  | nil => rfl
  | cons c t ih =>
    obtain ⟨k, v⟩ := c
    rw [Cells.erase]; split
    · exact ih
    · rename_i h; simp only [List.all_cons, Bool.and_eq_true, decide_eq_true_eq]; exact ⟨fun e => h e.symm, ih⟩

/-- A write keeps the canonical form. -/
theorem Cells.canonical_write [DecidableEq α] {l : List (Nat × α)} (h : Cells.canonical d l = true) (a : Nat) (x : α) :
    Cells.canonical d (Cells.write d l a x) = true := by
  unfold Cells.write; split
  · exact Cells.canonical_erase d h a
  · rename_i hx; exact Cells.canonical_insert d (Cells.canonical_erase d h a) hx (Cells.fresh_erase l a)

end Sys2Proof.Machine
end

