-- ==== Sys2Proof/Laws/State.lean ====
section
/-! SUPPORT. One lemma per field per update, and per observer per update that leaves it, so that no proof unfolds a
record update. -/

namespace Sys2Proof.Machine

variable (s : State)

/-! ### writeReg -/

@[simp] theorem State.writeReg_regs (q : RegIdx) (v : Word) : (s.writeReg q v).regs = if q = 0#5 then s.regs else s.regs.set q.toNat v q.isLt := rfl
@[simp] theorem State.writeReg_pc (q : RegIdx) (v : Word) : (s.writeReg q v).pc = s.pc := rfl
@[simp] theorem State.writeReg_priv (q : RegIdx) (v : Word) : (s.writeReg q v).priv = s.priv := rfl
@[simp] theorem State.writeReg_csr (q : RegIdx) (v : Word) : (s.writeReg q v).csr = s.csr := rfl
@[simp] theorem State.writeReg_justLoaded (q : RegIdx) (v : Word) : (s.writeReg q v).justLoaded = s.justLoaded := rfl
@[simp] theorem State.writeReg_reservation (q : RegIdx) (v : Word) : (s.writeReg q v).reservation = s.reservation := rfl
@[simp] theorem State.writeReg_mem (q : RegIdx) (v : Word) : (s.writeReg q v).mem = s.mem := rfl
@[simp] theorem State.writeReg_deviceEvents (q : RegIdx) (v : Word) : (s.writeReg q v).deviceEvents = s.deviceEvents := rfl
@[simp] theorem State.writeReg_deviceDraws (q : RegIdx) (v : Word) : (s.writeReg q v).deviceDraws = s.deviceDraws := rfl
@[simp] theorem State.writeReg_params (q : RegIdx) (v : Word) : (s.writeReg q v).params = s.params := rfl
@[simp] theorem State.writeReg_csrAt (q : RegIdx) (v : Word) (i : CsrIdx) :
    (s.writeReg q v).csrAt i = s.csrAt i := rfl
@[simp] theorem State.writeReg_csrReadRaw (q : RegIdx) (v : Word) (i : CsrIdx) :
    (s.writeReg q v).csrReadRaw i = s.csrReadRaw i := rfl
@[simp] theorem State.writeReg_retireCount (q : RegIdx) (v : Word) :
    (s.writeReg q v).retireCount = s.retireCount := rfl
@[simp] theorem State.writeReg_isReserved (q : RegIdx) (v : Word) (b : Word) :
    (s.writeReg q v).isReserved b = s.isReserved b := rfl

/-! ### setPc -/

@[simp] theorem State.setPc_regs (a : Word) : (s.setPc a).regs = s.regs := rfl
@[simp] theorem State.setPc_pc (a : Word) : (s.setPc a).pc = a := rfl
@[simp] theorem State.setPc_priv (a : Word) : (s.setPc a).priv = s.priv := rfl
@[simp] theorem State.setPc_csr (a : Word) : (s.setPc a).csr = s.csr := rfl
@[simp] theorem State.setPc_justLoaded (a : Word) : (s.setPc a).justLoaded = s.justLoaded := rfl
@[simp] theorem State.setPc_reservation (a : Word) : (s.setPc a).reservation = s.reservation := rfl
@[simp] theorem State.setPc_mem (a : Word) : (s.setPc a).mem = s.mem := rfl
@[simp] theorem State.setPc_deviceEvents (a : Word) : (s.setPc a).deviceEvents = s.deviceEvents := rfl
@[simp] theorem State.setPc_deviceDraws (a : Word) : (s.setPc a).deviceDraws = s.deviceDraws := rfl
@[simp] theorem State.setPc_params (a : Word) : (s.setPc a).params = s.params := rfl
@[simp] theorem State.setPc_readReg (a : Word) (r : RegIdx) :
    (s.setPc a).readReg r = s.readReg r := rfl
@[simp] theorem State.setPc_csrAt (a : Word) (i : CsrIdx) :
    (s.setPc a).csrAt i = s.csrAt i := rfl
@[simp] theorem State.setPc_csrReadRaw (a : Word) (i : CsrIdx) :
    (s.setPc a).csrReadRaw i = s.csrReadRaw i := rfl
@[simp] theorem State.setPc_retireCount (a : Word) :
    (s.setPc a).retireCount = s.retireCount := rfl
@[simp] theorem State.setPc_isReserved (a : Word) (b : Word) :
    (s.setPc a).isReserved b = s.isReserved b := rfl

/-! ### setPriv -/

@[simp] theorem State.setPriv_regs (p : Priv) : (s.setPriv p).regs = s.regs := rfl
@[simp] theorem State.setPriv_pc (p : Priv) : (s.setPriv p).pc = s.pc := rfl
@[simp] theorem State.setPriv_priv (p : Priv) : (s.setPriv p).priv = p := rfl
@[simp] theorem State.setPriv_csr (p : Priv) : (s.setPriv p).csr = s.csr := rfl
@[simp] theorem State.setPriv_justLoaded (p : Priv) : (s.setPriv p).justLoaded = s.justLoaded := rfl
@[simp] theorem State.setPriv_reservation (p : Priv) : (s.setPriv p).reservation = s.reservation := rfl
@[simp] theorem State.setPriv_mem (p : Priv) : (s.setPriv p).mem = s.mem := rfl
@[simp] theorem State.setPriv_deviceEvents (p : Priv) : (s.setPriv p).deviceEvents = s.deviceEvents := rfl
@[simp] theorem State.setPriv_deviceDraws (p : Priv) : (s.setPriv p).deviceDraws = s.deviceDraws := rfl
@[simp] theorem State.setPriv_params (p : Priv) : (s.setPriv p).params = s.params := rfl
@[simp] theorem State.setPriv_readReg (p : Priv) (r : RegIdx) :
    (s.setPriv p).readReg r = s.readReg r := rfl
@[simp] theorem State.setPriv_csrAt (p : Priv) (i : CsrIdx) :
    (s.setPriv p).csrAt i = s.csrAt i := rfl
@[simp] theorem State.setPriv_csrReadRaw (p : Priv) (i : CsrIdx) :
    (s.setPriv p).csrReadRaw i = s.csrReadRaw i := rfl
@[simp] theorem State.setPriv_retireCount (p : Priv) :
    (s.setPriv p).retireCount = s.retireCount := rfl
@[simp] theorem State.setPriv_isReserved (p : Priv) (b : Word) :
    (s.setPriv p).isReserved b = s.isReserved b := rfl

/-! ### jumpTo -/

@[simp] theorem State.jumpTo_regs (a : Word) : (s.jumpTo a).regs = s.regs := rfl
@[simp] theorem State.jumpTo_pc (a : Word) : (s.jumpTo a).pc = a - 4#32 := rfl
@[simp] theorem State.jumpTo_priv (a : Word) : (s.jumpTo a).priv = s.priv := rfl
@[simp] theorem State.jumpTo_csr (a : Word) : (s.jumpTo a).csr = s.csr := rfl
@[simp] theorem State.jumpTo_justLoaded (a : Word) : (s.jumpTo a).justLoaded = s.justLoaded := rfl
@[simp] theorem State.jumpTo_reservation (a : Word) : (s.jumpTo a).reservation = s.reservation := rfl
@[simp] theorem State.jumpTo_mem (a : Word) : (s.jumpTo a).mem = s.mem := rfl
@[simp] theorem State.jumpTo_deviceEvents (a : Word) : (s.jumpTo a).deviceEvents = s.deviceEvents := rfl
@[simp] theorem State.jumpTo_deviceDraws (a : Word) : (s.jumpTo a).deviceDraws = s.deviceDraws := rfl
@[simp] theorem State.jumpTo_params (a : Word) : (s.jumpTo a).params = s.params := rfl
@[simp] theorem State.jumpTo_readReg (a : Word) (r : RegIdx) :
    (s.jumpTo a).readReg r = s.readReg r := rfl
@[simp] theorem State.jumpTo_csrAt (a : Word) (i : CsrIdx) :
    (s.jumpTo a).csrAt i = s.csrAt i := rfl
@[simp] theorem State.jumpTo_csrReadRaw (a : Word) (i : CsrIdx) :
    (s.jumpTo a).csrReadRaw i = s.csrReadRaw i := rfl
@[simp] theorem State.jumpTo_retireCount (a : Word) :
    (s.jumpTo a).retireCount = s.retireCount := rfl
@[simp] theorem State.jumpTo_isReserved (a : Word) (b : Word) :
    (s.jumpTo a).isReserved b = s.isReserved b := rfl

/-! ### reserve -/

@[simp] theorem State.reserve_regs (a : Word) : (s.reserve a).regs = s.regs := rfl
@[simp] theorem State.reserve_pc (a : Word) : (s.reserve a).pc = s.pc := rfl
@[simp] theorem State.reserve_priv (a : Word) : (s.reserve a).priv = s.priv := rfl
@[simp] theorem State.reserve_csr (a : Word) : (s.reserve a).csr = s.csr := rfl
@[simp] theorem State.reserve_justLoaded (a : Word) : (s.reserve a).justLoaded = s.justLoaded := rfl
@[simp] theorem State.reserve_reservation (a : Word) : (s.reserve a).reservation = some a := rfl
@[simp] theorem State.reserve_mem (a : Word) : (s.reserve a).mem = s.mem := rfl
@[simp] theorem State.reserve_deviceEvents (a : Word) : (s.reserve a).deviceEvents = s.deviceEvents := rfl
@[simp] theorem State.reserve_deviceDraws (a : Word) : (s.reserve a).deviceDraws = s.deviceDraws := rfl
@[simp] theorem State.reserve_params (a : Word) : (s.reserve a).params = s.params := rfl
@[simp] theorem State.reserve_readReg (a : Word) (r : RegIdx) :
    (s.reserve a).readReg r = s.readReg r := rfl
@[simp] theorem State.reserve_csrAt (a : Word) (i : CsrIdx) :
    (s.reserve a).csrAt i = s.csrAt i := rfl
@[simp] theorem State.reserve_csrReadRaw (a : Word) (i : CsrIdx) :
    (s.reserve a).csrReadRaw i = s.csrReadRaw i := rfl
@[simp] theorem State.reserve_retireCount (a : Word) :
    (s.reserve a).retireCount = s.retireCount := rfl

/-! ### invalidateReservation -/

@[simp] theorem State.invalidateReservation_regs : (s.invalidateReservation).regs = s.regs := rfl
@[simp] theorem State.invalidateReservation_pc : (s.invalidateReservation).pc = s.pc := rfl
@[simp] theorem State.invalidateReservation_priv : (s.invalidateReservation).priv = s.priv := rfl
@[simp] theorem State.invalidateReservation_csr : (s.invalidateReservation).csr = s.csr := rfl
@[simp] theorem State.invalidateReservation_justLoaded : (s.invalidateReservation).justLoaded = s.justLoaded := rfl
@[simp] theorem State.invalidateReservation_reservation : (s.invalidateReservation).reservation = none := rfl
@[simp] theorem State.invalidateReservation_mem : (s.invalidateReservation).mem = s.mem := rfl
@[simp] theorem State.invalidateReservation_deviceEvents : (s.invalidateReservation).deviceEvents = s.deviceEvents := rfl
@[simp] theorem State.invalidateReservation_deviceDraws : (s.invalidateReservation).deviceDraws = s.deviceDraws := rfl
@[simp] theorem State.invalidateReservation_params : (s.invalidateReservation).params = s.params := rfl
@[simp] theorem State.invalidateReservation_readReg (r : RegIdx) :
    (s.invalidateReservation).readReg r = s.readReg r := rfl
@[simp] theorem State.invalidateReservation_csrAt (i : CsrIdx) :
    (s.invalidateReservation).csrAt i = s.csrAt i := rfl
@[simp] theorem State.invalidateReservation_csrReadRaw (i : CsrIdx) :
    (s.invalidateReservation).csrReadRaw i = s.csrReadRaw i := rfl
@[simp] theorem State.invalidateReservation_retireCount :
    (s.invalidateReservation).retireCount = s.retireCount := rfl

/-! ### deviceRead -/

@[simp] theorem State.deviceRead_regs (a : Word) : (s.deviceRead a).regs = s.regs := rfl
@[simp] theorem State.deviceRead_pc (a : Word) : (s.deviceRead a).pc = s.pc := rfl
@[simp] theorem State.deviceRead_priv (a : Word) : (s.deviceRead a).priv = s.priv := rfl
@[simp] theorem State.deviceRead_csr (a : Word) : (s.deviceRead a).csr = s.csr := rfl
@[simp] theorem State.deviceRead_justLoaded (a : Word) : (s.deviceRead a).justLoaded = s.justLoaded := rfl
@[simp] theorem State.deviceRead_reservation (a : Word) : (s.deviceRead a).reservation = s.reservation := rfl
@[simp] theorem State.deviceRead_mem (a : Word) : (s.deviceRead a).mem = s.mem := rfl
@[simp] theorem State.deviceRead_deviceEvents (a : Word) : (s.deviceRead a).deviceEvents = s.deviceEvents ++ [.read a] := rfl
@[simp] theorem State.deviceRead_deviceDraws (a : Word) : (s.deviceRead a).deviceDraws = s.deviceDraws + 1 := rfl
@[simp] theorem State.deviceRead_params (a : Word) : (s.deviceRead a).params = s.params := rfl
@[simp] theorem State.deviceRead_readReg (a : Word) (r : RegIdx) :
    (s.deviceRead a).readReg r = s.readReg r := rfl
@[simp] theorem State.deviceRead_csrAt (a : Word) (i : CsrIdx) :
    (s.deviceRead a).csrAt i = s.csrAt i := rfl
@[simp] theorem State.deviceRead_csrReadRaw (a : Word) (i : CsrIdx) :
    (s.deviceRead a).csrReadRaw i = s.csrReadRaw i := rfl
@[simp] theorem State.deviceRead_retireCount (a : Word) :
    (s.deviceRead a).retireCount = s.retireCount := rfl
@[simp] theorem State.deviceRead_isReserved (a : Word) (b : Word) :
    (s.deviceRead a).isReserved b = s.isReserved b := rfl

/-! ### deviceWrite -/

@[simp] theorem State.deviceWrite_regs (a : Word) (b : Byte) : (s.deviceWrite a b).regs = s.regs := rfl
@[simp] theorem State.deviceWrite_pc (a : Word) (b : Byte) : (s.deviceWrite a b).pc = s.pc := rfl
@[simp] theorem State.deviceWrite_priv (a : Word) (b : Byte) : (s.deviceWrite a b).priv = s.priv := rfl
@[simp] theorem State.deviceWrite_csr (a : Word) (b : Byte) : (s.deviceWrite a b).csr = s.csr := rfl
@[simp] theorem State.deviceWrite_justLoaded (a : Word) (b : Byte) : (s.deviceWrite a b).justLoaded = s.justLoaded := rfl
@[simp] theorem State.deviceWrite_reservation (a : Word) (b : Byte) : (s.deviceWrite a b).reservation = s.reservation := rfl
@[simp] theorem State.deviceWrite_mem (a : Word) (b : Byte) : (s.deviceWrite a b).mem = s.mem := rfl
@[simp] theorem State.deviceWrite_deviceEvents (a : Word) (b : Byte) : (s.deviceWrite a b).deviceEvents = s.deviceEvents ++ [.write a b] := rfl
@[simp] theorem State.deviceWrite_deviceDraws (a : Word) (b : Byte) : (s.deviceWrite a b).deviceDraws = s.deviceDraws := rfl
@[simp] theorem State.deviceWrite_params (a : Word) (b : Byte) : (s.deviceWrite a b).params = s.params := rfl
@[simp] theorem State.deviceWrite_readReg (a : Word) (b : Byte) (r : RegIdx) :
    (s.deviceWrite a b).readReg r = s.readReg r := rfl
@[simp] theorem State.deviceWrite_csrAt (a : Word) (b : Byte) (i : CsrIdx) :
    (s.deviceWrite a b).csrAt i = s.csrAt i := rfl
@[simp] theorem State.deviceWrite_csrReadRaw (a : Word) (b : Byte) (i : CsrIdx) :
    (s.deviceWrite a b).csrReadRaw i = s.csrReadRaw i := rfl
@[simp] theorem State.deviceWrite_retireCount (a : Word) (b : Byte) :
    (s.deviceWrite a b).retireCount = s.retireCount := rfl
@[simp] theorem State.deviceWrite_isReserved (a : Word) (b : Byte) (c : Word) :
    (s.deviceWrite a b).isReserved c = s.isReserved c := rfl

/-! ### dramWrite -/

@[simp] theorem State.dramWrite_regs (a : Word) (b : Byte) : (s.dramWrite a b).regs = s.regs := rfl
@[simp] theorem State.dramWrite_pc (a : Word) (b : Byte) : (s.dramWrite a b).pc = s.pc := rfl
@[simp] theorem State.dramWrite_priv (a : Word) (b : Byte) : (s.dramWrite a b).priv = s.priv := rfl
@[simp] theorem State.dramWrite_csr (a : Word) (b : Byte) : (s.dramWrite a b).csr = s.csr := rfl
@[simp] theorem State.dramWrite_justLoaded (a : Word) (b : Byte) : (s.dramWrite a b).justLoaded = s.justLoaded := rfl
@[simp] theorem State.dramWrite_reservation (a : Word) (b : Byte) : (s.dramWrite a b).reservation = if s.reservation = some a then none else s.reservation := rfl
@[simp] theorem State.dramWrite_mem (a : Word) (b : Byte) : (s.dramWrite a b).mem = s.mem.write a b := rfl
@[simp] theorem State.dramWrite_deviceEvents (a : Word) (b : Byte) : (s.dramWrite a b).deviceEvents = s.deviceEvents := rfl
@[simp] theorem State.dramWrite_deviceDraws (a : Word) (b : Byte) : (s.dramWrite a b).deviceDraws = s.deviceDraws := rfl
@[simp] theorem State.dramWrite_params (a : Word) (b : Byte) : (s.dramWrite a b).params = s.params := rfl
@[simp] theorem State.dramWrite_readReg (a : Word) (b : Byte) (r : RegIdx) :
    (s.dramWrite a b).readReg r = s.readReg r := rfl
@[simp] theorem State.dramWrite_csrAt (a : Word) (b : Byte) (i : CsrIdx) :
    (s.dramWrite a b).csrAt i = s.csrAt i := rfl
@[simp] theorem State.dramWrite_csrReadRaw (a : Word) (b : Byte) (i : CsrIdx) :
    (s.dramWrite a b).csrReadRaw i = s.csrReadRaw i := rfl
@[simp] theorem State.dramWrite_retireCount (a : Word) (b : Byte) :
    (s.dramWrite a b).retireCount = s.retireCount := rfl

/-! ### setCsr -/

@[simp] theorem State.setCsr_regs (j : CsrIdx) (v : Word) : (s.setCsr j v).regs = s.regs := rfl
@[simp] theorem State.setCsr_pc (j : CsrIdx) (v : Word) : (s.setCsr j v).pc = s.pc := rfl
@[simp] theorem State.setCsr_priv (j : CsrIdx) (v : Word) : (s.setCsr j v).priv = s.priv := rfl
@[simp] theorem State.setCsr_csr (j : CsrIdx) (v : Word) : (s.setCsr j v).csr = Cells.write 0#32 s.csr j.toNat v := rfl
@[simp] theorem State.setCsr_justLoaded (j : CsrIdx) (v : Word) : (s.setCsr j v).justLoaded = s.justLoaded := rfl
@[simp] theorem State.setCsr_reservation (j : CsrIdx) (v : Word) : (s.setCsr j v).reservation = s.reservation := rfl
@[simp] theorem State.setCsr_mem (j : CsrIdx) (v : Word) : (s.setCsr j v).mem = s.mem := rfl
@[simp] theorem State.setCsr_deviceEvents (j : CsrIdx) (v : Word) : (s.setCsr j v).deviceEvents = s.deviceEvents := rfl
@[simp] theorem State.setCsr_deviceDraws (j : CsrIdx) (v : Word) : (s.setCsr j v).deviceDraws = s.deviceDraws := rfl
@[simp] theorem State.setCsr_params (j : CsrIdx) (v : Word) : (s.setCsr j v).params = s.params := rfl
@[simp] theorem State.setCsr_readReg (j : CsrIdx) (v : Word) (r : RegIdx) :
    (s.setCsr j v).readReg r = s.readReg r := rfl
@[simp] theorem State.setCsr_isReserved (j : CsrIdx) (v : Word) (b : Word) :
    (s.setCsr j v).isReserved b = s.isReserved b := rfl

/-! ### csrWriteRaw -/

@[simp] theorem State.csrWriteRaw_regs (j : CsrIdx) (v : Word) : (s.csrWriteRaw j v).regs = s.regs := rfl
@[simp] theorem State.csrWriteRaw_pc (j : CsrIdx) (v : Word) : (s.csrWriteRaw j v).pc = s.pc := rfl
@[simp] theorem State.csrWriteRaw_priv (j : CsrIdx) (v : Word) : (s.csrWriteRaw j v).priv = s.priv := rfl
@[simp] theorem State.csrWriteRaw_csr (j : CsrIdx) (v : Word) : (s.csrWriteRaw j v).csr = Cells.write 0#32 s.csr (csrWriteTarget j).toNat (s.csrWriteValue j v) := rfl
@[simp] theorem State.csrWriteRaw_justLoaded (j : CsrIdx) (v : Word) : (s.csrWriteRaw j v).justLoaded = (s.justLoaded || j == csrMinstret || j == csrMinstreth) := rfl
@[simp] theorem State.csrWriteRaw_reservation (j : CsrIdx) (v : Word) : (s.csrWriteRaw j v).reservation = s.reservation := rfl
@[simp] theorem State.csrWriteRaw_mem (j : CsrIdx) (v : Word) : (s.csrWriteRaw j v).mem = s.mem := rfl
@[simp] theorem State.csrWriteRaw_deviceEvents (j : CsrIdx) (v : Word) : (s.csrWriteRaw j v).deviceEvents = s.deviceEvents := rfl
@[simp] theorem State.csrWriteRaw_deviceDraws (j : CsrIdx) (v : Word) : (s.csrWriteRaw j v).deviceDraws = s.deviceDraws := rfl
@[simp] theorem State.csrWriteRaw_params (j : CsrIdx) (v : Word) : (s.csrWriteRaw j v).params = s.params := rfl
@[simp] theorem State.csrWriteRaw_readReg (j : CsrIdx) (v : Word) (r : RegIdx) :
    (s.csrWriteRaw j v).readReg r = s.readReg r := rfl
@[simp] theorem State.csrWriteRaw_isReserved (j : CsrIdx) (v : Word) (b : Word) :
    (s.csrWriteRaw j v).isReserved b = s.isReserved b := rfl

/-! ### incrementRetireCounter -/

@[simp] theorem State.incrementRetireCounter_regs : (s.incrementRetireCounter).regs = s.regs := by
  unfold State.incrementRetireCounter; split <;> rfl
@[simp] theorem State.incrementRetireCounter_pc : (s.incrementRetireCounter).pc = s.pc := by
  unfold State.incrementRetireCounter; split <;> rfl
@[simp] theorem State.incrementRetireCounter_priv : (s.incrementRetireCounter).priv = s.priv := by
  unfold State.incrementRetireCounter; split <;> rfl
@[simp] theorem State.incrementRetireCounter_justLoaded : (s.incrementRetireCounter).justLoaded = false := by
  unfold State.incrementRetireCounter; split <;> simp_all
@[simp] theorem State.incrementRetireCounter_reservation : (s.incrementRetireCounter).reservation = s.reservation := by
  unfold State.incrementRetireCounter; split <;> rfl
@[simp] theorem State.incrementRetireCounter_mem : (s.incrementRetireCounter).mem = s.mem := by
  unfold State.incrementRetireCounter; split <;> rfl
@[simp] theorem State.incrementRetireCounter_deviceEvents : (s.incrementRetireCounter).deviceEvents = s.deviceEvents := by
  unfold State.incrementRetireCounter; split <;> rfl
@[simp] theorem State.incrementRetireCounter_deviceDraws : (s.incrementRetireCounter).deviceDraws = s.deviceDraws := by
  unfold State.incrementRetireCounter; split <;> rfl
@[simp] theorem State.incrementRetireCounter_params : (s.incrementRetireCounter).params = s.params := by
  unfold State.incrementRetireCounter; split <;> rfl
@[simp] theorem State.incrementRetireCounter_readReg (r : RegIdx) :
    (s.incrementRetireCounter).readReg r = s.readReg r := by
  unfold State.incrementRetireCounter; split <;> rfl
@[simp] theorem State.incrementRetireCounter_isReserved (b : Word) :
    (s.incrementRetireCounter).isReserved b = s.isReserved b := by
  unfold State.incrementRetireCounter; split <;> rfl

/-! ### retire -/

@[simp] theorem State.retire_regs : (s.retire).regs = s.regs := by
  simp [State.retire]
@[simp] theorem State.retire_pc : (s.retire).pc = s.pc + 4#32 := by
  simp [State.retire]
@[simp] theorem State.retire_priv : (s.retire).priv = s.priv := by
  simp [State.retire]
@[simp] theorem State.retire_justLoaded : (s.retire).justLoaded = false := by
  simp [State.retire]
@[simp] theorem State.retire_reservation : (s.retire).reservation = s.reservation := by
  simp [State.retire]
@[simp] theorem State.retire_mem : (s.retire).mem = s.mem := by
  simp [State.retire]
@[simp] theorem State.retire_deviceEvents : (s.retire).deviceEvents = s.deviceEvents := by
  simp [State.retire]
@[simp] theorem State.retire_deviceDraws : (s.retire).deviceDraws = s.deviceDraws := by
  simp [State.retire]
@[simp] theorem State.retire_params : (s.retire).params = s.params := by
  simp [State.retire]
@[simp] theorem State.retire_readReg (r : RegIdx) :
    (s.retire).readReg r = s.readReg r := by
  simp [State.retire]
@[simp] theorem State.retire_isReserved (b : Word) :
    (s.retire).isReserved b = s.isReserved b := by
  simp [State.retire]

/-! ### takeException -/

@[simp] theorem takeException_regs (e : Exception) (pc0 : Word) : (takeException e pc0 s).regs = s.regs := by
  simp [takeException]
@[simp] theorem takeException_priv (e : Exception) (pc0 : Word) : (takeException e pc0 s).priv = .machine := by
  simp [takeException]
@[simp] theorem takeException_justLoaded (e : Exception) (pc0 : Word) : (takeException e pc0 s).justLoaded = s.justLoaded := by
  simp [takeException, csrMstatus, csrMepc, csrMcause, csrMtval, csrMinstret, csrMinstreth]
@[simp] theorem takeException_reservation (e : Exception) (pc0 : Word) : (takeException e pc0 s).reservation = s.reservation := by
  simp [takeException]
@[simp] theorem takeException_mem (e : Exception) (pc0 : Word) : (takeException e pc0 s).mem = s.mem := by
  simp [takeException]
@[simp] theorem takeException_deviceEvents (e : Exception) (pc0 : Word) : (takeException e pc0 s).deviceEvents = s.deviceEvents := by
  simp [takeException]
@[simp] theorem takeException_deviceDraws (e : Exception) (pc0 : Word) : (takeException e pc0 s).deviceDraws = s.deviceDraws := by
  simp [takeException]
@[simp] theorem takeException_params (e : Exception) (pc0 : Word) : (takeException e pc0 s).params = s.params := by
  simp [takeException]
@[simp] theorem takeException_readReg (e : Exception) (pc0 : Word) (r : RegIdx) :
    (takeException e pc0 s).readReg r = s.readReg r := by
  simp [takeException]

/-! ### load, withFetchWord -/

@[simp] theorem State.load_regs (a : Word) (bs : List Byte) : (s.load a bs).regs = s.regs := rfl
@[simp] theorem State.load_pc (a : Word) (bs : List Byte) : (s.load a bs).pc = s.pc := rfl
@[simp] theorem State.load_priv (a : Word) (bs : List Byte) : (s.load a bs).priv = s.priv := rfl
@[simp] theorem State.load_csr (a : Word) (bs : List Byte) : (s.load a bs).csr = s.csr := rfl
@[simp] theorem State.load_justLoaded (a : Word) (bs : List Byte) : (s.load a bs).justLoaded = s.justLoaded := rfl
@[simp] theorem State.load_reservation (a : Word) (bs : List Byte) : (s.load a bs).reservation = s.reservation := rfl
@[simp] theorem State.load_mem (a : Word) (bs : List Byte) : (s.load a bs).mem = s.mem.load a bs := rfl
@[simp] theorem State.load_deviceEvents (a : Word) (bs : List Byte) : (s.load a bs).deviceEvents = s.deviceEvents := rfl
@[simp] theorem State.load_deviceDraws (a : Word) (bs : List Byte) : (s.load a bs).deviceDraws = s.deviceDraws := rfl
@[simp] theorem State.load_params (a : Word) (bs : List Byte) : (s.load a bs).params = s.params := rfl
@[simp] theorem State.withFetchWord_regs (n w : Nat) :
    (s.withFetchWord n w).regs = s.regs := rfl
@[simp] theorem State.withFetchWord_pc (n w : Nat) :
    (s.withFetchWord n w).pc = fetchPlace s := rfl
@[simp] theorem State.withFetchWord_priv (n w : Nat) :
    (s.withFetchWord n w).priv = s.priv := rfl
@[simp] theorem State.withFetchWord_csr (n w : Nat) :
    (s.withFetchWord n w).csr = s.csr := rfl
@[simp] theorem State.withFetchWord_justLoaded (n w : Nat) :
    (s.withFetchWord n w).justLoaded = s.justLoaded := rfl
@[simp] theorem State.withFetchWord_reservation (n w : Nat) :
    (s.withFetchWord n w).reservation = s.reservation := rfl
@[simp] theorem State.withFetchWord_mem (n w : Nat) :
    (s.withFetchWord n w).mem = s.mem.load (fetchPlace s) (bytesOfWord (BitVec.ofNat 32 (w % 2 ^ n))) := rfl
@[simp] theorem State.withFetchWord_deviceEvents (n w : Nat) :
    (s.withFetchWord n w).deviceEvents = s.deviceEvents := rfl
@[simp] theorem State.withFetchWord_deviceDraws (n w : Nat) :
    (s.withFetchWord n w).deviceDraws = s.deviceDraws := rfl
@[simp] theorem State.withFetchWord_params (n w : Nat) :
    (s.withFetchWord n w).params = s.params := rfl

/-! ### registers -/

/-- Reading a register after a write; register 0 reads 0 and drops writes (R21, R22). -/
theorem State.readReg_writeReg (r q : RegIdx) (v : Word) :
    (s.writeReg r v).readReg q = if q = r ∧ r ≠ 0#5 then v else s.readReg q := by
  unfold State.readReg State.writeReg
  by_cases hr : r = 0#5
  · simp [hr]
  · by_cases hq : q = 0#5
    · subst hq; simp [Ne.symm hr, hr]
    · by_cases h : q = r
      · subst h; simp [hq]
      · have : ¬ r.toNat = q.toNat := fun e => h (BitVec.eq_of_toNat_eq e.symm)
        simp [hr, hq, h, this]

@[simp] theorem State.readReg_zero : s.readReg 0#5 = 0#32 := rfl

@[simp] theorem State.readReg_writeReg_self {r : RegIdx} (h : r ≠ 0#5) (v : Word) : (s.writeReg r v).readReg r = v := by
  rw [State.readReg_writeReg, if_pos ⟨rfl, h⟩]

@[simp] theorem State.writeReg_zero (v : Word) : s.writeReg 0#5 v = s := rfl

end Sys2Proof.Machine
end

