-- ==== Sys2Proof/Laws/Csr.lean ====
section
/-! SUPPORT. The CSR bank: reads after writes, the retire counter, trap entry read from outside, and the canonical
form. -/

namespace Sys2Proof.Machine

variable (s : State)

/-! ## Reads after writes -/

theorem State.csrAt_setCsr (i j : CsrIdx) (v : Word) : (s.setCsr i v).csrAt j = if j = i then v else s.csrAt j := by
  unfold State.csrAt State.setCsr
  rw [Cells.read_write]
  by_cases h : j = i
  · simp [h]
  · have : ¬ j.toNat = i.toNat := fun e => h (BitVec.eq_of_toNat_eq e)
    simp [h, this]

@[simp] theorem State.csrAt_setCsr_self (i : CsrIdx) (v : Word) : (s.setCsr i v).csrAt i = v := by
  rw [State.csrAt_setCsr, if_pos rfl]

theorem State.csrAt_setCsr_ne {i j : CsrIdx} (h : j ≠ i) (v : Word) : (s.setCsr i v).csrAt j = s.csrAt j := by
  rw [State.csrAt_setCsr, if_neg h]

/-- A write through the transforms changes one storage word (R36). -/
theorem State.csrAt_csrWriteRaw (i j : CsrIdx) (v : Word) :
    (s.csrWriteRaw i v).csrAt j = if j = csrWriteTarget i then s.csrWriteValue i v else s.csrAt j :=
  State.csrAt_setCsr s (csrWriteTarget i) j (s.csrWriteValue i v)

/-- Only `sstatus` writes elsewhere than at its own index. -/
theorem csrWriteTarget_of_ne {i : CsrIdx} (h : i ≠ csrSstatus) : csrWriteTarget i = i := if_neg h

theorem State.csrWriteValue_plain {i : CsrIdx} (h : i ≠ csrSstatus) (h' : i ≠ csrMepc) (v : Word) :
    s.csrWriteValue i v = v := by simp [State.csrWriteValue, h, h']

@[simp] theorem State.csrWriteValue_mepc (v : Word) : s.csrWriteValue csrMepc v = clearLow2 v := by
  simp [State.csrWriteValue, csrMepc, csrSstatus]

/-- An index without a read transform reads as stored (R34). -/
theorem State.csrReadRaw_plain {i : CsrIdx} (h : i ∉ [csrSstatus, csrMip, csrMie, csrTselect]) :
    s.csrReadRaw i = s.csrAt i := by
  simp only [List.mem_cons, List.not_mem_nil, or_false, not_or] at h
  simp [State.csrReadRaw, h]

@[simp] theorem State.csrReadRaw_mstatus : s.csrReadRaw csrMstatus = s.csrAt csrMstatus :=
  State.csrReadRaw_plain s (by decide)

@[simp] theorem State.csrReadRaw_mtvec : s.csrReadRaw csrMtvec = s.csrAt csrMtvec := State.csrReadRaw_plain s (by decide)

@[simp] theorem State.csrReadRaw_mepc : s.csrReadRaw csrMepc = s.csrAt csrMepc := State.csrReadRaw_plain s (by decide)

/-! ## The checked accesses (R33, R35) -/

theorem csrRead_ok {i : CsrIdx} {s : State} (h : csrTier i ≤ s.priv.level) : csrRead i s = .ok (s.csrReadRaw i) s :=
  if_neg (by omega)

theorem csrRead_raise {i : CsrIdx} {s : State} (h : s.priv.level < csrTier i) : csrRead i s = .raise illegal s :=
  if_pos h

theorem csrWrite_ok {i : CsrIdx} {s : State} (h : csrTier i ≤ s.priv.level) (h' : csrReadOnly i = false) (v : Word) :
    csrWrite i v s = .ok () (s.csrWriteRaw i v) := by
  rw [csrWrite, if_neg (by simp [h']), if_neg (by omega)]

theorem csrWrite_raise {i : CsrIdx} {s : State} (h : s.priv.level < csrTier i ∨ csrReadOnly i = true) (v : Word) :
    csrWrite i v s = .raise illegal s := by
  unfold csrWrite
  rcases h with h | h <;> simp [h]

/-! ## The retire counter (R55, R58) -/

theorem State.csrAt_incrementRetireCounter {i : CsrIdx} (h : i ≠ csrMinstret) (h' : i ≠ csrMinstreth) :
    s.incrementRetireCounter.csrAt i = s.csrAt i := by
  unfold State.incrementRetireCounter
  split
  · rfl
  · rw [State.csrAt_setCsr_ne _ h', State.csrAt_setCsr_ne _ h]

theorem State.retireCount_incrementRetireCounter :
    s.incrementRetireCounter.retireCount = if s.justLoaded then s.retireCount else s.retireCount + 1#64 := by
  unfold State.incrementRetireCounter
  split
  · rfl
  · generalize s.retireCount + 1#64 = c
    show State.csrAt _ _ ++ State.csrAt _ _ = c
    rw [State.csrAt_setCsr_self, State.csrAt_setCsr_ne _ (by decide : csrMinstret ≠ csrMinstreth),
      State.csrAt_setCsr_self]
    apply BitVec.eq_of_getLsbD_eq
    intro i hi
    rw [BitVec.getLsbD_append]
    by_cases h : i < 32
    · simp [h]
    · simp [h, show i - 32 < 32 by omega, show 32 + (i - 32) = i by omega]

theorem State.csrAt_retire {i : CsrIdx} (h : i ≠ csrMinstret) (h' : i ≠ csrMinstreth) :
    s.retire.csrAt i = s.csrAt i := State.csrAt_incrementRetireCounter (s.setPc (s.pc + 4#32)) h h'

/-- Retiring steps the counter (R12). -/
theorem State.counterStepped_retire : CounterStepped s s.retire :=
  ⟨State.retireCount_incrementRetireCounter (s.setPc (s.pc + 4#32)), State.retire_justLoaded s⟩

/-! ## Fields of mstatus (R40, R41) -/

theorem getField_setField_self {n : Nat} (w : Word) (lo : Nat) (v : BitVec n) (h : lo + n ≤ 32) :
    getField (setField w lo v) lo n = v := by
  apply BitVec.eq_of_getLsbD_eq
  intro i hi
  simp [getField, setField, hi, show lo + i < 32 by omega, show lo + i - lo = i by omega]

theorem getField_setField_apart {n m : Nat} (w : Word) (lo lo' : Nat) (v : BitVec n)
    (h : lo + n ≤ lo' ∨ lo' + m ≤ lo) : getField (setField w lo v) lo' m = getField w lo' m := by
  apply BitVec.eq_of_getLsbD_eq
  intro i hi
  by_cases hw : lo' + i < 32
  · rcases h with h | h
    · have : ¬ lo' + i - lo < n := by omega
      simp [getField, setField, hi, hw, this, BitVec.getLsbD_of_ge v _ (by omega : n ≤ lo' + i - lo)]
    · have : lo' + i < lo := by omega
      simp [getField, setField, hi, hw, this]
  · simp [getField, hi, BitVec.getLsbD_of_ge _ _ (by omega : 32 ≤ lo' + i)]

theorem MstatusField.get_set_self (f : MstatusField) (m : Word) (v : BitVec f.width) : f.get (f.set m v) = v :=
  getField_setField_self m f.lo v (by cases f <;> decide)

theorem MstatusField.get_set_ne {f g : MstatusField} (h : g ≠ f) (m : Word) (v : BitVec f.width) :
    g.get (f.set m v) = g.get m :=
  getField_setField_apart m f.lo g.lo v (by revert h; cases f <;> cases g <;> decide)

/-! ## What trap entry and MRET make of mstatus (R330, R312) -/

theorem mstatusOnTrap_mpp (m : Word) (p : Priv) : getMpp (mstatusOnTrap m p) = p.bits :=
  (MstatusField.get_set_ne (f := .mie) (g := .mpp) (by decide) _ _).trans
    ((MstatusField.get_set_ne (f := .mpie) (g := .mpp) (by decide) _ _).trans (MstatusField.get_set_self .mpp _ _))

theorem mstatusOnTrap_mpie (m : Word) (p : Priv) :
    MstatusField.get .mpie (mstatusOnTrap m p) = MstatusField.get .mie m :=
  (MstatusField.get_set_ne (f := .mie) (g := .mpie) (by decide) _ _).trans (MstatusField.get_set_self .mpie _ _)

theorem mstatusOnTrap_mie (m : Word) (p : Priv) : MstatusField.get .mie (mstatusOnTrap m p) = 0#1 :=
  MstatusField.get_set_self .mie _ _

theorem mstatusOnTrap_other {f : MstatusField} (h : f ≠ .mpp) (h' : f ≠ .mpie) (h'' : f ≠ .mie) (m : Word) (p : Priv) :
    f.get (mstatusOnTrap m p) = f.get m :=
  (MstatusField.get_set_ne h'' _ _).trans ((MstatusField.get_set_ne h' _ _).trans (MstatusField.get_set_ne h _ _))

/-- MRET's three unconditional writes. -/
def mretFields (m : Word) : Word :=
  MstatusField.set .mpp (MstatusField.set .mpie (MstatusField.set .mie m (MstatusField.get .mpie m)) 1#1) 0#2

theorem mstatusOnMret_eq (m : Word) :
    mstatusOnMret m = if getMpp m = 3#2 then mretFields m else MstatusField.set .mprv (mretFields m) 0#1 := rfl

theorem mretFields_mie (m : Word) : MstatusField.get .mie (mretFields m) = MstatusField.get .mpie m :=
  (MstatusField.get_set_ne (f := .mpp) (g := .mie) (by decide) _ _).trans
    ((MstatusField.get_set_ne (f := .mpie) (g := .mie) (by decide) _ _).trans (MstatusField.get_set_self .mie _ _))

theorem mretFields_mpie (m : Word) : MstatusField.get .mpie (mretFields m) = 1#1 :=
  (MstatusField.get_set_ne (f := .mpp) (g := .mpie) (by decide) _ _).trans (MstatusField.get_set_self .mpie _ _)

theorem mretFields_mpp (m : Word) : getMpp (mretFields m) = 0#2 := MstatusField.get_set_self .mpp _ _

theorem mretFields_other {f : MstatusField} (h : f ≠ .mie) (h' : f ≠ .mpie) (h'' : f ≠ .mpp) (m : Word) :
    f.get (mretFields m) = f.get m :=
  (MstatusField.get_set_ne h'' _ _).trans ((MstatusField.get_set_ne h' _ _).trans (MstatusField.get_set_ne h _ _))

/-- A field other than MPRV is what the three writes made it. -/
theorem mstatusOnMret_get {f : MstatusField} (h : f ≠ .mprv) (m : Word) :
    f.get (mstatusOnMret m) = f.get (mretFields m) := by
  rw [mstatusOnMret_eq]
  split
  · rfl
  · exact MstatusField.get_set_ne h _ _

theorem mstatusOnMret_mprv (m : Word) :
    MstatusField.get .mprv (mstatusOnMret m) = if getMpp m = 3#2 then MstatusField.get .mprv m else 0#1 := by
  rw [mstatusOnMret_eq]
  by_cases h : getMpp m = 3#2
  · rw [if_pos h, if_pos h]
    exact mretFields_other (f := .mprv) (by decide) (by decide) (by decide) m
  · rw [if_neg h, if_neg h]
    exact MstatusField.get_set_self .mprv _ _

/-! ## Trap entry -/

/-- The storage words after trap entry (R330). -/
theorem takeException_csrAt (e : Exception) (pc0 : Word) (i : CsrIdx) :
    (takeException e pc0 s).csrAt i =
      if i = csrMtval then 0#32
      else if i = csrMcause then e.word
      else if i = csrMepc then clearLow2 pc0
      else if i = csrMstatus then mstatusOnTrap (s.csrAt csrMstatus) s.priv
      else s.csrAt i := by
  simp only [takeException, State.setPc_csrAt, State.setPriv_csrAt, State.csrAt_csrWriteRaw, State.csrReadRaw_mstatus,
    csrWriteTarget_of_ne (by decide : csrMtval ≠ csrSstatus), csrWriteTarget_of_ne (by decide : csrMcause ≠ csrSstatus),
    csrWriteTarget_of_ne (by decide : csrMepc ≠ csrSstatus), csrWriteTarget_of_ne (by decide : csrMstatus ≠ csrSstatus),
    State.csrWriteValue_mepc, State.csrWriteValue_plain _ (by decide : csrMtval ≠ csrSstatus) (by decide),
    State.csrWriteValue_plain _ (by decide : csrMcause ≠ csrSstatus) (by decide),
    State.csrWriteValue_plain _ (by decide : csrMstatus ≠ csrSstatus) (by decide)]

theorem takeException_pc (e : Exception) (pc0 : Word) :
    (takeException e pc0 s).pc = trapTarget (s.csrAt csrMtvec) e := by
  have h : (takeException e pc0 s).csrAt csrMtvec = s.csrAt csrMtvec := by
    rw [takeException_csrAt]
    simp [csrMtvec, csrMtval, csrMcause, csrMepc, csrMstatus]
  rw [← h]
  simp only [takeException, State.setPc_pc, State.setPc_csrAt, State.csrReadRaw_mtvec]

/-! ## The canonical form -/

theorem State.csrWf_setCsr {s : State} (h : CsrBank.wf s.csr = true) (i : CsrIdx) (v : Word) :
    CsrBank.wf (s.setCsr i v).csr = true := by
  rw [CsrBank.wf, Bool.and_eq_true] at h ⊢
  exact ⟨Cells.canonical_write _ h.1 _ _, Cells.all_write _ h.2 (decide_eq_true i.isLt)⟩

theorem State.csrWf_csrWriteRaw {s : State} (h : CsrBank.wf s.csr = true) (i : CsrIdx) (v : Word) :
    CsrBank.wf (s.csrWriteRaw i v).csr = true := State.csrWf_setCsr h (csrWriteTarget i) (s.csrWriteValue i v)

theorem State.csrWf_retire {s : State} (h : CsrBank.wf s.csr = true) : CsrBank.wf s.retire.csr = true := by
  unfold State.retire State.incrementRetireCounter
  split
  · exact h
  · exact State.csrWf_setCsr (State.csrWf_setCsr (s := s.setPc _) h _ _) _ _

theorem csrWf_takeException {s : State} (h : CsrBank.wf s.csr = true) (e : Exception) (pc0 : Word) :
    CsrBank.wf (takeException e pc0 s).csr = true := by
  simp only [takeException, State.setPc_csr, State.setPriv_csr]
  exact State.csrWf_csrWriteRaw (State.csrWf_csrWriteRaw (State.csrWf_csrWriteRaw (State.csrWf_csrWriteRaw h _ _) _ _)
    _ _) _ _

end Sys2Proof.Machine
end

