-- ==== Sys2Proof/Laws/Decode.lean ====
section
/-! SUPPORT. Each field of each shape's word, and what the opcode table's masks keep. -/

namespace Sys2Proof

/-! ## The fields of a packed word -/

@[simp] theorem fOpcode_pack (f7 : BitVec 7) (rs2 rs1 : BitVec 5) (f3 : BitVec 3) (rd : BitVec 5) (op : BitVec 7) :
    fOpcode (pack f7 rs2 rs1 f3 rd op) = op := by
  unfold fOpcode pack; apply BitVec.eq_of_getLsbD_eq; intro i hi
  simp only [BitVec.getLsbD_extractLsb', BitVec.getLsbD_append, hi, decide_true, Bool.true_and]
  interval_cases i <;> simp
@[simp] theorem fRd_pack (f7 : BitVec 7) (rs2 rs1 : BitVec 5) (f3 : BitVec 3) (rd : BitVec 5) (op : BitVec 7) :
    fRd (pack f7 rs2 rs1 f3 rd op) = rd := by
  unfold fRd pack; apply BitVec.eq_of_getLsbD_eq; intro i hi
  simp only [BitVec.getLsbD_extractLsb', BitVec.getLsbD_append, hi, decide_true, Bool.true_and]
  interval_cases i <;> simp
@[simp] theorem fFunct3_pack (f7 : BitVec 7) (rs2 rs1 : BitVec 5) (f3 : BitVec 3) (rd : BitVec 5) (op : BitVec 7) :
    fFunct3 (pack f7 rs2 rs1 f3 rd op) = f3 := by
  unfold fFunct3 pack; apply BitVec.eq_of_getLsbD_eq; intro i hi
  simp only [BitVec.getLsbD_extractLsb', BitVec.getLsbD_append, hi, decide_true, Bool.true_and]
  interval_cases i <;> simp
@[simp] theorem fRs1_pack (f7 : BitVec 7) (rs2 rs1 : BitVec 5) (f3 : BitVec 3) (rd : BitVec 5) (op : BitVec 7) :
    fRs1 (pack f7 rs2 rs1 f3 rd op) = rs1 := by
  unfold fRs1 pack; apply BitVec.eq_of_getLsbD_eq; intro i hi
  simp only [BitVec.getLsbD_extractLsb', BitVec.getLsbD_append, hi, decide_true, Bool.true_and]
  interval_cases i <;> simp
@[simp] theorem fRs2_pack (f7 : BitVec 7) (rs2 rs1 : BitVec 5) (f3 : BitVec 3) (rd : BitVec 5) (op : BitVec 7) :
    fRs2 (pack f7 rs2 rs1 f3 rd op) = rs2 := by
  unfold fRs2 pack; apply BitVec.eq_of_getLsbD_eq; intro i hi
  simp only [BitVec.getLsbD_extractLsb', BitVec.getLsbD_append, hi, decide_true, Bool.true_and]
  interval_cases i <;> simp
@[simp] theorem fFunct7_pack (f7 : BitVec 7) (rs2 rs1 : BitVec 5) (f3 : BitVec 3) (rd : BitVec 5) (op : BitVec 7) :
    fFunct7 (pack f7 rs2 rs1 f3 rd op) = f7 := by
  unfold fFunct7 pack; apply BitVec.eq_of_getLsbD_eq; intro i hi
  simp only [BitVec.getLsbD_extractLsb', BitVec.getLsbD_append, hi, decide_true, Bool.true_and]
  interval_cases i <;> simp

@[simp] theorem fOpcode_packI (imm : BitVec 12) (rs1 : RegIdx) (f3 : BitVec 3) (rd : RegIdx) (op : BitVec 7) :
    fOpcode (packI imm rs1 f3 rd op) = op := by
  unfold fOpcode packI; apply BitVec.eq_of_getLsbD_eq; intro i hi
  simp only [BitVec.getLsbD_extractLsb', BitVec.getLsbD_append, hi, decide_true, Bool.true_and]
  interval_cases i <;> simp
@[simp] theorem fRd_packI (imm : BitVec 12) (rs1 : RegIdx) (f3 : BitVec 3) (rd : RegIdx) (op : BitVec 7) :
    fRd (packI imm rs1 f3 rd op) = rd := by
  unfold fRd packI; apply BitVec.eq_of_getLsbD_eq; intro i hi
  simp only [BitVec.getLsbD_extractLsb', BitVec.getLsbD_append, hi, decide_true, Bool.true_and]
  interval_cases i <;> simp
@[simp] theorem fFunct3_packI (imm : BitVec 12) (rs1 : RegIdx) (f3 : BitVec 3) (rd : RegIdx) (op : BitVec 7) :
    fFunct3 (packI imm rs1 f3 rd op) = f3 := by
  unfold fFunct3 packI; apply BitVec.eq_of_getLsbD_eq; intro i hi
  simp only [BitVec.getLsbD_extractLsb', BitVec.getLsbD_append, hi, decide_true, Bool.true_and]
  interval_cases i <;> simp
@[simp] theorem fRs1_packI (imm : BitVec 12) (rs1 : RegIdx) (f3 : BitVec 3) (rd : RegIdx) (op : BitVec 7) :
    fRs1 (packI imm rs1 f3 rd op) = rs1 := by
  unfold fRs1 packI; apply BitVec.eq_of_getLsbD_eq; intro i hi
  simp only [BitVec.getLsbD_extractLsb', BitVec.getLsbD_append, hi, decide_true, Bool.true_and]
  interval_cases i <;> simp
@[simp] theorem fImmI_packI (imm : BitVec 12) (rs1 : RegIdx) (f3 : BitVec 3) (rd : RegIdx) (op : BitVec 7) :
    fImmI (packI imm rs1 f3 rd op) = imm := by
  unfold fImmI packI; apply BitVec.eq_of_getLsbD_eq; intro i hi
  simp only [BitVec.getLsbD_extractLsb', BitVec.getLsbD_append, hi, decide_true, Bool.true_and]
  interval_cases i <;> simp
@[simp] theorem fCsr_packI (imm : BitVec 12) (rs1 : RegIdx) (f3 : BitVec 3) (rd : RegIdx) (op : BitVec 7) :
    fCsr (packI imm rs1 f3 rd op) = imm := by
  unfold fCsr packI; apply BitVec.eq_of_getLsbD_eq; intro i hi
  simp only [BitVec.getLsbD_extractLsb', BitVec.getLsbD_append, hi, decide_true, Bool.true_and]
  interval_cases i <;> simp

@[simp] theorem fOpcode_packS (imm : BitVec 12) (rs2 rs1 : RegIdx) (f3 : BitVec 3) :
    fOpcode (packS imm rs2 rs1 f3) = 0x23#7 := by
  unfold fOpcode packS; apply BitVec.eq_of_getLsbD_eq; intro i hi
  simp only [BitVec.getLsbD_extractLsb', BitVec.getLsbD_append, hi, decide_true, Bool.true_and]
  interval_cases i <;> simp
@[simp] theorem fFunct3_packS (imm : BitVec 12) (rs2 rs1 : RegIdx) (f3 : BitVec 3) :
    fFunct3 (packS imm rs2 rs1 f3) = f3 := by
  unfold fFunct3 packS; apply BitVec.eq_of_getLsbD_eq; intro i hi
  simp only [BitVec.getLsbD_extractLsb', BitVec.getLsbD_append, hi, decide_true, Bool.true_and]
  interval_cases i <;> simp
@[simp] theorem fRs1_packS (imm : BitVec 12) (rs2 rs1 : RegIdx) (f3 : BitVec 3) :
    fRs1 (packS imm rs2 rs1 f3) = rs1 := by
  unfold fRs1 packS; apply BitVec.eq_of_getLsbD_eq; intro i hi
  simp only [BitVec.getLsbD_extractLsb', BitVec.getLsbD_append, hi, decide_true, Bool.true_and]
  interval_cases i <;> simp
@[simp] theorem fRs2_packS (imm : BitVec 12) (rs2 rs1 : RegIdx) (f3 : BitVec 3) :
    fRs2 (packS imm rs2 rs1 f3) = rs2 := by
  unfold fRs2 packS; apply BitVec.eq_of_getLsbD_eq; intro i hi
  simp only [BitVec.getLsbD_extractLsb', BitVec.getLsbD_append, hi, decide_true, Bool.true_and]
  interval_cases i <;> simp
@[simp] theorem fImmS_packS (imm : BitVec 12) (rs2 rs1 : RegIdx) (f3 : BitVec 3) :
    fImmS (packS imm rs2 rs1 f3) = imm := by
  unfold fImmS packS; apply BitVec.eq_of_getLsbD_eq; intro i hi
  simp only [BitVec.getLsbD_extractLsb', BitVec.getLsbD_append]
  interval_cases i <;> simp

@[simp] theorem fOpcode_packB (imm : BitVec 13) (rs2 rs1 : RegIdx) (f3 : BitVec 3) :
    fOpcode (packB imm rs2 rs1 f3) = 0x63#7 := by
  unfold fOpcode packB; apply BitVec.eq_of_getLsbD_eq; intro i hi
  simp only [BitVec.getLsbD_extractLsb', BitVec.getLsbD_append, hi, decide_true, Bool.true_and]
  interval_cases i <;> simp
@[simp] theorem fFunct3_packB (imm : BitVec 13) (rs2 rs1 : RegIdx) (f3 : BitVec 3) :
    fFunct3 (packB imm rs2 rs1 f3) = f3 := by
  unfold fFunct3 packB; apply BitVec.eq_of_getLsbD_eq; intro i hi
  simp only [BitVec.getLsbD_extractLsb', BitVec.getLsbD_append, hi, decide_true, Bool.true_and]
  interval_cases i <;> simp
@[simp] theorem fRs1_packB (imm : BitVec 13) (rs2 rs1 : RegIdx) (f3 : BitVec 3) :
    fRs1 (packB imm rs2 rs1 f3) = rs1 := by
  unfold fRs1 packB; apply BitVec.eq_of_getLsbD_eq; intro i hi
  simp only [BitVec.getLsbD_extractLsb', BitVec.getLsbD_append, hi, decide_true, Bool.true_and]
  interval_cases i <;> simp
@[simp] theorem fRs2_packB (imm : BitVec 13) (rs2 rs1 : RegIdx) (f3 : BitVec 3) :
    fRs2 (packB imm rs2 rs1 f3) = rs2 := by
  unfold fRs2 packB; apply BitVec.eq_of_getLsbD_eq; intro i hi
  simp only [BitVec.getLsbD_extractLsb', BitVec.getLsbD_append, hi, decide_true, Bool.true_and]
  interval_cases i <;> simp

@[simp] theorem fOpcode_packU (imm : BitVec 20) (rd : RegIdx) (op : BitVec 7) :
    fOpcode (packU imm rd op) = op := by
  unfold fOpcode packU; apply BitVec.eq_of_getLsbD_eq; intro i hi
  simp only [BitVec.getLsbD_extractLsb', BitVec.getLsbD_append, hi, decide_true, Bool.true_and]
  interval_cases i <;> simp
@[simp] theorem fRd_packU (imm : BitVec 20) (rd : RegIdx) (op : BitVec 7) :
    fRd (packU imm rd op) = rd := by
  unfold fRd packU; apply BitVec.eq_of_getLsbD_eq; intro i hi
  simp only [BitVec.getLsbD_extractLsb', BitVec.getLsbD_append, hi, decide_true, Bool.true_and]
  interval_cases i <;> simp
@[simp] theorem fImmU_packU (imm : BitVec 20) (rd : RegIdx) (op : BitVec 7) :
    fImmU (packU imm rd op) = imm := by
  unfold fImmU packU; apply BitVec.eq_of_getLsbD_eq; intro i hi
  simp only [BitVec.getLsbD_extractLsb', BitVec.getLsbD_append, hi, decide_true, Bool.true_and]
  interval_cases i <;> simp

@[simp] theorem fOpcode_packJ (imm : BitVec 21) (rd : RegIdx) :
    fOpcode (packJ imm rd) = 0x6F#7 := by
  unfold fOpcode packJ; apply BitVec.eq_of_getLsbD_eq; intro i hi
  simp only [BitVec.getLsbD_extractLsb', BitVec.getLsbD_append, hi, decide_true, Bool.true_and]
  interval_cases i <;> simp
@[simp] theorem fRd_packJ (imm : BitVec 21) (rd : RegIdx) :
    fRd (packJ imm rd) = rd := by
  unfold fRd packJ; apply BitVec.eq_of_getLsbD_eq; intro i hi
  simp only [BitVec.getLsbD_extractLsb', BitVec.getLsbD_append, hi, decide_true, Bool.true_and]
  interval_cases i <;> simp

@[simp] theorem fOpcode_packFence (fm pred succ : BitVec 4) (rs1 rd : RegIdx) :
    fOpcode (packFence fm pred succ rs1 rd) = 0x0F#7 := by
  unfold fOpcode packFence; apply BitVec.eq_of_getLsbD_eq; intro i hi
  simp only [BitVec.getLsbD_extractLsb', BitVec.getLsbD_append, hi, decide_true, Bool.true_and]
  interval_cases i <;> simp
@[simp] theorem fFunct3_packFence (fm pred succ : BitVec 4) (rs1 rd : RegIdx) :
    fFunct3 (packFence fm pred succ rs1 rd) = 0b000#3 := by
  unfold fFunct3 packFence; apply BitVec.eq_of_getLsbD_eq; intro i hi
  simp only [BitVec.getLsbD_extractLsb', BitVec.getLsbD_append, hi, decide_true, Bool.true_and]
  interval_cases i <;> simp
@[simp] theorem fRd_packFence (fm pred succ : BitVec 4) (rs1 rd : RegIdx) :
    fRd (packFence fm pred succ rs1 rd) = rd := by
  unfold fRd packFence; apply BitVec.eq_of_getLsbD_eq; intro i hi
  simp only [BitVec.getLsbD_extractLsb', BitVec.getLsbD_append, hi, decide_true, Bool.true_and]
  interval_cases i <;> simp
@[simp] theorem fRs1_packFence (fm pred succ : BitVec 4) (rs1 rd : RegIdx) :
    fRs1 (packFence fm pred succ rs1 rd) = rs1 := by
  unfold fRs1 packFence; apply BitVec.eq_of_getLsbD_eq; intro i hi
  simp only [BitVec.getLsbD_extractLsb', BitVec.getLsbD_append, hi, decide_true, Bool.true_and]
  interval_cases i <;> simp
@[simp] theorem fFm_packFence (fm pred succ : BitVec 4) (rs1 rd : RegIdx) :
    fFm (packFence fm pred succ rs1 rd) = fm := by
  unfold fFm packFence; apply BitVec.eq_of_getLsbD_eq; intro i hi
  simp only [BitVec.getLsbD_extractLsb', BitVec.getLsbD_append, hi, decide_true, Bool.true_and]
  interval_cases i <;> simp
@[simp] theorem fPred_packFence (fm pred succ : BitVec 4) (rs1 rd : RegIdx) :
    fPred (packFence fm pred succ rs1 rd) = pred := by
  unfold fPred packFence; apply BitVec.eq_of_getLsbD_eq; intro i hi
  simp only [BitVec.getLsbD_extractLsb', BitVec.getLsbD_append, hi, decide_true, Bool.true_and]
  interval_cases i <;> simp
@[simp] theorem fSucc_packFence (fm pred succ : BitVec 4) (rs1 rd : RegIdx) :
    fSucc (packFence fm pred succ rs1 rd) = succ := by
  unfold fSucc packFence; apply BitVec.eq_of_getLsbD_eq; intro i hi
  simp only [BitVec.getLsbD_extractLsb', BitVec.getLsbD_append, hi, decide_true, Bool.true_and]
  interval_cases i <;> simp

@[simp] theorem fOpcode_packAmo (f5 : BitVec 5) (aq rl : Bool) (rs2 rs1 rd : RegIdx) :
    fOpcode (packAmo f5 aq rl rs2 rs1 rd) = 0x2F#7 := by
  unfold fOpcode packAmo; apply BitVec.eq_of_getLsbD_eq; intro i hi
  simp only [BitVec.getLsbD_extractLsb', BitVec.getLsbD_append, hi, decide_true, Bool.true_and]
  interval_cases i <;> simp
@[simp] theorem fFunct3_packAmo (f5 : BitVec 5) (aq rl : Bool) (rs2 rs1 rd : RegIdx) :
    fFunct3 (packAmo f5 aq rl rs2 rs1 rd) = 0b010#3 := by
  unfold fFunct3 packAmo; apply BitVec.eq_of_getLsbD_eq; intro i hi
  simp only [BitVec.getLsbD_extractLsb', BitVec.getLsbD_append, hi, decide_true, Bool.true_and]
  interval_cases i <;> simp
@[simp] theorem fRd_packAmo (f5 : BitVec 5) (aq rl : Bool) (rs2 rs1 rd : RegIdx) :
    fRd (packAmo f5 aq rl rs2 rs1 rd) = rd := by
  unfold fRd packAmo; apply BitVec.eq_of_getLsbD_eq; intro i hi
  simp only [BitVec.getLsbD_extractLsb', BitVec.getLsbD_append, hi, decide_true, Bool.true_and]
  interval_cases i <;> simp
@[simp] theorem fRs1_packAmo (f5 : BitVec 5) (aq rl : Bool) (rs2 rs1 rd : RegIdx) :
    fRs1 (packAmo f5 aq rl rs2 rs1 rd) = rs1 := by
  unfold fRs1 packAmo; apply BitVec.eq_of_getLsbD_eq; intro i hi
  simp only [BitVec.getLsbD_extractLsb', BitVec.getLsbD_append, hi, decide_true, Bool.true_and]
  interval_cases i <;> simp
@[simp] theorem fRs2_packAmo (f5 : BitVec 5) (aq rl : Bool) (rs2 rs1 rd : RegIdx) :
    fRs2 (packAmo f5 aq rl rs2 rs1 rd) = rs2 := by
  unfold fRs2 packAmo; apply BitVec.eq_of_getLsbD_eq; intro i hi
  simp only [BitVec.getLsbD_extractLsb', BitVec.getLsbD_append, hi, decide_true, Bool.true_and]
  interval_cases i <;> simp
@[simp] theorem fFunct5_packAmo (f5 : BitVec 5) (aq rl : Bool) (rs2 rs1 rd : RegIdx) :
    fFunct5 (packAmo f5 aq rl rs2 rs1 rd) = f5 := by
  unfold fFunct5 packAmo; apply BitVec.eq_of_getLsbD_eq; intro i hi
  simp only [BitVec.getLsbD_extractLsb', BitVec.getLsbD_append, hi, decide_true, Bool.true_and]
  interval_cases i <;> simp
@[simp] theorem fAq_packAmo (f5 : BitVec 5) (aq rl : Bool) (rs2 rs1 rd : RegIdx) : fAq (packAmo f5 aq rl rs2 rs1 rd) = aq := by
  unfold fAq packAmo; simp only [BitVec.getLsbD_append]; simp
@[simp] theorem fRl_packAmo (f5 : BitVec 5) (aq rl : Bool) (rs2 rs1 rd : RegIdx) : fRl (packAmo f5 aq rl rs2 rs1 rd) = rl := by
  unfold fRl packAmo; simp only [BitVec.getLsbD_append]; simp
/-- An even branch or jump offset is read back whole (R131, R133). -/
theorem fImmB_packB {imm : BitVec 13} (h : imm.getLsbD 0 = false) (rs2 rs1 : RegIdx) (f3 : BitVec 3) :
    fImmB (packB imm rs2 rs1 f3) = imm := by
  unfold fImmB packB; apply BitVec.eq_of_getLsbD_eq; intro i hi
  simp only [BitVec.getLsbD_extractLsb', BitVec.getLsbD_append]
  interval_cases i <;> simp
  simpa using h.symm

theorem fImmJ_packJ {imm : BitVec 21} (h : imm.getLsbD 0 = false) (rd : RegIdx) : fImmJ (packJ imm rd) = imm := by
  unfold fImmJ packJ; apply BitVec.eq_of_getLsbD_eq; intro i hi
  simp only [BitVec.getLsbD_extractLsb', BitVec.getLsbD_append]
  interval_cases i <;> simp
  simpa using h.symm

/-- The immediates a word carries are even. -/
theorem fImmB_even (w : Word) : (fImmB w).getLsbD 0 = false := by
  unfold fImmB; simp only [BitVec.getLsbD_append]; simp
theorem fImmJ_even (w : Word) : (fImmJ w).getLsbD 0 = false := by
  unfold fImmJ; simp only [BitVec.getLsbD_append]; simp

/-! ## Even offsets, bytes -/

theorem evenOffset_iff {n : Nat} (x : BitVec n) : evenOffset x = true ↔ x.getLsbD 0 = false := by
  unfold evenOffset; rw [Bool.not_eq_true']

@[simp] theorem evenOffset_fImmB (w : Word) : evenOffset (fImmB w) = true := (evenOffset_iff _).mpr (fImmB_even w)
@[simp] theorem evenOffset_fImmJ (w : Word) : evenOffset (fImmJ w) = true := (evenOffset_iff _).mpr (fImmJ_even w)

/-- An even offset comes back out of its word. -/
theorem fImmB_packB_of_even {imm : BitVec 13} (h : evenOffset imm = true) (rs2 rs1 : RegIdx) (f3 : BitVec 3) :
    fImmB (packB imm rs2 rs1 f3) = imm := fImmB_packB ((evenOffset_iff _).mp h) rs2 rs1 f3
theorem fImmJ_packJ_of_even {imm : BitVec 21} (h : evenOffset imm = true) (rd : RegIdx) :
    fImmJ (packJ imm rd) = imm := fImmJ_packJ ((evenOffset_iff _).mp h) rd

/-- A word is its four bytes put together, and the bytes are what was put together (R86, R90). -/
theorem wordOfBytes_byte (w : Word) : wordOfBytes (w.byte 0) (w.byte 1) (w.byte 2) (w.byte 3) = w := by
  unfold wordOfBytes Word.byte; apply BitVec.eq_of_getLsbD_eq; intro i hi
  simp only [BitVec.getLsbD_extractLsb', BitVec.getLsbD_append]
  interval_cases i <;> simp

theorem bytesOfWord_wordOfBytes (b0 b1 b2 b3 : Byte) : bytesOfWord (wordOfBytes b0 b1 b2 b3) = [b0, b1, b2, b3] := by
  have h : ∀ k, k < 4 → (wordOfBytes b0 b1 b2 b3).byte k = [b0, b1, b2, b3][k]! := by
    intro k hk
    unfold wordOfBytes Word.byte
    apply BitVec.eq_of_getLsbD_eq; intro i hi
    simp only [BitVec.getLsbD_extractLsb', BitVec.getLsbD_append]
    interval_cases k <;> interval_cases i <;> simp
  simp [bytesOfWord, h 0 (by omega), h 1 (by omega), h 2 (by omega), h 3 (by omega)]

/-- The decoder on the four bytes of a word, and whatever follows. -/
theorem decode_bytesOfWord (w : Word) (rest : List Byte) :
    decode (bytesOfWord w ++ rest) = (match decodeWord w with | .ok i => .ok (i, rest) | .error e => .error e) := by
  have h : decode (bytesOfWord w ++ rest) = decode (w.byte 0 :: w.byte 1 :: w.byte 2 :: w.byte 3 :: rest) := rfl
  rw [h]
  cases hd : decodeWord w <;> simp only [decode, wordOfBytes_byte, hd]

/-! ## A word is its fields packed again -/

theorem pack_fields (w : Word) : pack (fFunct7 w) (fRs2 w) (fRs1 w) (fFunct3 w) (fRd w) (fOpcode w) = w := by
  unfold pack fFunct7 fRs2 fRs1 fFunct3 fRd fOpcode; apply BitVec.eq_of_getLsbD_eq; intro i hi
  simp only [BitVec.getLsbD_extractLsb', BitVec.getLsbD_append]
  interval_cases i <;> simp

theorem packI_fields (w : Word) : packI (fImmI w) (fRs1 w) (fFunct3 w) (fRd w) (fOpcode w) = w := by
  unfold packI fImmI fRs1 fFunct3 fRd fOpcode; apply BitVec.eq_of_getLsbD_eq; intro i hi
  simp only [BitVec.getLsbD_extractLsb', BitVec.getLsbD_append]
  interval_cases i <;> simp

theorem packI_csr_fields (w : Word) : packI (fCsr w) (fRs1 w) (fFunct3 w) (fRd w) (fOpcode w) = w := by
  unfold packI fCsr fRs1 fFunct3 fRd fOpcode; apply BitVec.eq_of_getLsbD_eq; intro i hi
  simp only [BitVec.getLsbD_extractLsb', BitVec.getLsbD_append]
  interval_cases i <;> simp

theorem packU_fields (w : Word) : packU (fImmU w) (fRd w) (fOpcode w) = w := by
  unfold packU fImmU fRd fOpcode; apply BitVec.eq_of_getLsbD_eq; intro i hi
  simp only [BitVec.getLsbD_extractLsb', BitVec.getLsbD_append]
  interval_cases i <;> simp

theorem packS_fields {w : Word} (h : fOpcode w = 0x23#7) : packS (fImmS w) (fRs2 w) (fRs1 w) (fFunct3 w) = w := by
  unfold packS; rw [← h]; unfold fImmS fRs2 fRs1 fFunct3 fOpcode; apply BitVec.eq_of_getLsbD_eq; intro i hi
  simp only [BitVec.getLsbD_extractLsb', BitVec.getLsbD_append]
  interval_cases i <;> simp

theorem packB_fields {w : Word} (h : fOpcode w = 0x63#7) : packB (fImmB w) (fRs2 w) (fRs1 w) (fFunct3 w) = w := by
  unfold packB; rw [← h]; unfold fImmB fRs2 fRs1 fFunct3 fOpcode; apply BitVec.eq_of_getLsbD_eq; intro i hi
  simp only [BitVec.getLsbD_extractLsb', BitVec.getLsbD_append]
  interval_cases i <;> simp

theorem packJ_fields {w : Word} (h : fOpcode w = 0x6F#7) : packJ (fImmJ w) (fRd w) = w := by
  unfold packJ; rw [← h]; unfold fImmJ fRd fOpcode; apply BitVec.eq_of_getLsbD_eq; intro i hi
  simp only [BitVec.getLsbD_extractLsb', BitVec.getLsbD_append]
  interval_cases i <;> simp

theorem packFence_fields {w : Word} (h : fOpcode w = 0x0F#7) (h' : fFunct3 w = 0b000#3) :
    packFence (fFm w) (fPred w) (fSucc w) (fRs1 w) (fRd w) = w := by
  unfold packFence; rw [← h, ← h']; unfold fFm fPred fSucc fRs1 fRd fFunct3 fOpcode; apply BitVec.eq_of_getLsbD_eq; intro i hi
  simp only [BitVec.getLsbD_extractLsb', BitVec.getLsbD_append]
  interval_cases i <;> simp

theorem packAmo_fields {w : Word} (h : fOpcode w = 0x2F#7) (h' : fFunct3 w = 0b010#3) :
    packAmo (fFunct5 w) (fAq w) (fRl w) (fRs2 w) (fRs1 w) (fRd w) = w := by
  unfold packAmo; rw [← h, ← h']; unfold fFunct5 fAq fRl fRs2 fRs1 fRd fFunct3 fOpcode; apply BitVec.eq_of_getLsbD_eq; intro i hi
  simp only [BitVec.getLsbD_extractLsb', BitVec.getLsbD_append]
  interval_cases i <;> simp

/-! ## What the opcode table's masks keep -/

theorem fOpcode_and (w m : Word) : fOpcode (w &&& m) = fOpcode w &&& fOpcode m := BitVec.extractLsb'_and
theorem fFunct3_and (w m : Word) : fFunct3 (w &&& m) = fFunct3 w &&& fFunct3 m := BitVec.extractLsb'_and
theorem fFunct7_and (w m : Word) : fFunct7 (w &&& m) = fFunct7 w &&& fFunct7 m := BitVec.extractLsb'_and
theorem fFunct5_and (w m : Word) : fFunct5 (w &&& m) = fFunct5 w &&& fFunct5 m := BitVec.extractLsb'_and

theorem and_mask_7f (w : Word) : w &&& 0x0000007f#32 = 0#25 ++ fOpcode w := by
  unfold fOpcode; apply BitVec.eq_of_getLsbD_eq; intro i hi
  simp only [BitVec.getLsbD_and, BitVec.getLsbD_extractLsb', BitVec.getLsbD_append]
  interval_cases i <;> simp

theorem and_mask_707f (w : Word) : w &&& 0x0000707f#32 = 0#17 ++ fFunct3 w ++ 0#5 ++ fOpcode w := by
  unfold fFunct3 fOpcode; apply BitVec.eq_of_getLsbD_eq; intro i hi
  simp only [BitVec.getLsbD_and, BitVec.getLsbD_extractLsb', BitVec.getLsbD_append]
  interval_cases i <;> simp

theorem and_mask_fe00707f (w : Word) : w &&& 0xfe00707f#32 = fFunct7 w ++ 0#10 ++ fFunct3 w ++ 0#5 ++ fOpcode w := by
  unfold fFunct7 fFunct3 fOpcode; apply BitVec.eq_of_getLsbD_eq; intro i hi
  simp only [BitVec.getLsbD_and, BitVec.getLsbD_extractLsb', BitVec.getLsbD_append]
  interval_cases i <;> simp

theorem and_mask_f800707f (w : Word) : w &&& 0xf800707f#32 = fFunct5 w ++ 0#12 ++ fFunct3 w ++ 0#5 ++ fOpcode w := by
  unfold fFunct5 fFunct3 fOpcode; apply BitVec.eq_of_getLsbD_eq; intro i hi
  simp only [BitVec.getLsbD_and, BitVec.getLsbD_extractLsb', BitVec.getLsbD_append]
  interval_cases i <;> simp

end Sys2Proof
end

