-- ==== Sys2Proof/Laws/Memory.lean ====
section
/-! SUPPORT. Memory: contents, regions, and what each access primitive can do. -/

namespace Sys2Proof.Machine

/-! ## Contents -/

theorem Memory.read_write (m : Memory) (a c : Word) (b : Byte) :
    (m.write a b).read c = if c = a then b else m.read c := by
  unfold Memory.read Memory.write
  rw [Cells.read_write]
  by_cases h : c = a
  · simp [h]
  · have : ¬ c.toNat = a.toNat := fun e => h (BitVec.eq_of_toNat_eq e)
    simp [h, this]

@[simp] theorem Memory.read_write_self (m : Memory) (a : Word) (b : Byte) : (m.write a b).read a = b := by
  rw [Memory.read_write, if_pos rfl]

theorem Memory.read_write_ne (m : Memory) {a c : Word} (h : c ≠ a) (b : Byte) : (m.write a b).read c = m.read c := by
  rw [Memory.read_write, if_neg h]

/-- A write keeps the canonical form. -/
theorem Memory.wf_write {m : Memory} (h : m.wf = true) (a : Word) (b : Byte) : (m.write a b).wf = true :=
  Cells.canonical_write _ h _ _

/-- A write to a DRAM or ROM byte keeps memory to what exists. -/
theorem Memory.mapped_write {m : Memory} (h : m.mapped = true) {a : Word} (ha : backed a) (b : Byte) :
    (m.write a b).mapped = true := by
  refine Cells.all_write unlistedByte h ?_
  have : a.toNat < 4294967296 := a.isLt
  rcases ha with ha | ha <;> simpa [ha] using this

/-! ## Regions (R81) -/

/-- Reading a word's address as a number, with a small offset that does not leave an aligned word. -/
theorem toNat_add_of_aligned4 {a : Word} (h : aligned4 a = true) {k : Nat} (hk : k < 4) :
    (a + BitVec.ofNat 32 k).toNat = a.toNat + k := by
  have h4 : a.toNat % 4 = 0 := by
    have := congrArg BitVec.toNat (eq_of_beq h)
    simpa [BitVec.extractLsb'_toNat] using this
  have := a.isLt
  simp [BitVec.toNat_add, BitVec.toNat_ofNat]
  omega

theorem aligned4_iff (a : Word) : aligned4 a = true ↔ a.toNat % 4 = 0 := by
  unfold aligned4
  rw [beq_iff_eq]
  constructor
  · intro h; have := congrArg BitVec.toNat h; simpa [BitVec.extractLsb'_toNat] using this
  · intro h; apply BitVec.eq_of_toNat_eq; simpa [BitVec.extractLsb'_toNat] using h

/-- Every region's first address and size are multiples of 4, so an aligned word lies in one region (R87). -/
theorem regionOf_add_of_aligned4 {a : Word} (h : aligned4 a = true) {k : Nat} (hk : k < 4) :
    regionOf (a + BitVec.ofNat 32 k) = regionOf a := by
  have h4 := (aligned4_iff a).mp h
  unfold regionOf
  rw [toNat_add_of_aligned4 h hk]
  simp only [Config.romBase, Config.romSize, Config.uartBase, Config.uartSize, Config.dramBase, Config.dramSize]
  congr 1
  · exact propext (by omega)
  · congr 1
    · exact propext (by omega)
    · congr 1; exact propext (by omega)

theorem regionOf_add1 {a : Word} (h : aligned4 a = true) : regionOf (a + 1#32) = regionOf a :=
  regionOf_add_of_aligned4 h (k := 1) (by omega)
theorem regionOf_add2 {a : Word} (h : aligned4 a = true) : regionOf (a + 2#32) = regionOf a :=
  regionOf_add_of_aligned4 h (k := 2) (by omega)
theorem regionOf_add3 {a : Word} (h : aligned4 a = true) : regionOf (a + 3#32) = regionOf a :=
  regionOf_add_of_aligned4 h (k := 3) (by omega)

/-! ## The four addresses of a word -/

theorem word_add_11 (a : Word) : a + 1#32 + 1#32 = a + 2#32 := by rw [BitVec.add_assoc]; rfl
theorem word_add_21 (a : Word) : a + 2#32 + 1#32 = a + 3#32 := by rw [BitVec.add_assoc]; rfl

/-! ## Sequencing -/

@[simp] theorem Result.bind_ok {α β : Type} (a : α) (s : State) (f : α → State → Result β) :
    (Result.ok a s).bind f = f a s := rfl
@[simp] theorem Result.bind_raise {α β : Type} (e : Exception) (s : State) (f : α → State → Result β) :
    (Result.raise e s).bind f = .raise e s := rfl
@[simp] theorem Result.bind_refuse {α β : Type} (r : Refusal) (f : α → State → Result β) :
    (Result.refuse r : Result α).bind f = .refuse r := rfl

/-- A sequence completes only through both parts. -/
theorem Result.bind_eq_ok {α β : Type} {r : Result α} {f : α → State → Result β} {b : β} {t : State}
    (h : r.bind f = .ok b t) : ∃ a u, r = .ok a u ∧ f a u = .ok b t := by
  cases r with
  | ok a u => exact ⟨a, u, rfl, h⟩
  | raise e u => cases h
  | refuse r => cases h

/-- A sequence raises in its first part, or in its second. -/
theorem Result.bind_eq_raise {α β : Type} {r : Result α} {f : α → State → Result β} {e : Exception} {t : State}
    (h : r.bind f = .raise e t) : r = .raise e t ∨ ∃ a u, r = .ok a u ∧ f a u = .raise e t := by
  cases r with
  | ok a u => exact .inr ⟨a, u, rfl, h⟩
  | raise e' u => cases h; exact .inl rfl
  | refuse r => cases h

/-! ## Byte accesses (R84, R85) -/

theorem memReadByte_backed {a : Word} (h : backed a) (s : State) : memReadByte a s = .ok (s.mem.read a) s := by
  rcases h with h | h <;> simp [memReadByte, h]

theorem memReadByte_uart {a : Word} (h : regionOf a = .uart) (s : State) :
    memReadByte a s = .ok (Config.deviceRead s.deviceDraws a) (s.deviceRead a) := by simp [memReadByte, h]

theorem memReadByte_unmapped {a : Word} (h : regionOf a = .unmapped) (s : State) :
    memReadByte a s = .raise .loadAccessFault s := by simp [memReadByte, h]

theorem memWriteByte_dram {a : Word} (h : regionOf a = .dram) (b : Byte) (s : State) :
    memWriteByte a b s = .ok () (s.dramWrite a b) := by simp [memWriteByte, h]

theorem memWriteByte_uart {a : Word} (h : regionOf a = .uart) (b : Byte) (s : State) :
    memWriteByte a b s = .ok () (s.deviceWrite a b) := by simp [memWriteByte, h]

theorem memWriteByte_fault {a : Word} (h : regionOf a = .rom ∨ regionOf a = .unmapped) (b : Byte) (s : State) :
    memWriteByte a b s = .raise .storeAmoAccessFault s := by rcases h with h | h <;> simp [memWriteByte, h]

/-! ## Word accesses (R86, R87) -/

theorem memReadWord_misaligned {a : Word} (h : aligned4 a = false) (s : State) :
    memReadWord a s = .raise .loadAddressMisaligned s := if_pos h

theorem memReadWord_backed {a : Word} (h : aligned4 a = true) (hb : backed a) (s : State) :
    memReadWord a s = .ok (s.mem.wordAt a) s := by
  have b1 : backed (a + 1#32) := by simpa [backed, regionOf_add1 h] using hb
  have b2 : backed (a + 2#32) := by simpa [backed, regionOf_add2 h] using hb
  have b3 : backed (a + 3#32) := by simpa [backed, regionOf_add3 h] using hb
  simp [memReadWord, h, memReadByte_backed, hb, b1, b2, b3, Memory.wordAt]

theorem memReadWord_unmapped {a : Word} (h : aligned4 a = true) (hu : regionOf a = .unmapped) (s : State) :
    memReadWord a s = .raise .loadAccessFault s := by simp [memReadWord, h, memReadByte_unmapped hu]

theorem memReadWord_uart {a : Word} (h : aligned4 a = true) (hu : regionOf a = .uart) (s : State) :
    memReadWord a s =
      .ok (wordOfBytes (Config.deviceRead s.deviceDraws a) (Config.deviceRead (s.deviceDraws + 1) (a + 1#32))
        (Config.deviceRead (s.deviceDraws + 2) (a + 2#32)) (Config.deviceRead (s.deviceDraws + 3) (a + 3#32)))
      ((((s.deviceRead a).deviceRead (a + 1#32)).deviceRead (a + 2#32)).deviceRead (a + 3#32)) := by
  simp [memReadWord, h, memReadByte_uart hu, memReadByte_uart ((regionOf_add1 h).trans hu),
    memReadByte_uart ((regionOf_add2 h).trans hu), memReadByte_uart ((regionOf_add3 h).trans hu)]

theorem memWriteWord_misaligned {a : Word} (h : aligned4 a = false) (w : Word) (s : State) :
    memWriteWord a w s = .raise .storeAmoAddressMisaligned s := if_pos h

theorem memWriteWord_dram {a : Word} (h : aligned4 a = true) (hd : regionOf a = .dram) (w : Word) (s : State) :
    memWriteWord a w s = .ok () ((((s.dramWrite a (w.byte 0)).dramWrite (a + 1#32) (w.byte 1)).dramWrite (a + 2#32)
      (w.byte 2)).dramWrite (a + 3#32) (w.byte 3)) := by
  simp [memWriteWord, h, memWriteByte_dram hd, memWriteByte_dram ((regionOf_add1 h).trans hd),
    memWriteByte_dram ((regionOf_add2 h).trans hd), memWriteByte_dram ((regionOf_add3 h).trans hd)]

theorem memWriteWord_uart {a : Word} (h : aligned4 a = true) (hu : regionOf a = .uart) (w : Word) (s : State) :
    memWriteWord a w s = .ok () ((((s.deviceWrite a (w.byte 0)).deviceWrite (a + 1#32) (w.byte 1)).deviceWrite
      (a + 2#32) (w.byte 2)).deviceWrite (a + 3#32) (w.byte 3)) := by
  simp [memWriteWord, h, memWriteByte_uart hu, memWriteByte_uart ((regionOf_add1 h).trans hu),
    memWriteByte_uart ((regionOf_add2 h).trans hu), memWriteByte_uart ((regionOf_add3 h).trans hu)]

theorem memWriteWord_fault {a : Word} (h : aligned4 a = true) (hf : regionOf a = .rom ∨ regionOf a = .unmapped)
    (w : Word) (s : State) : memWriteWord a w s = .raise .storeAmoAccessFault s := by
  simp [memWriteWord, h, memWriteByte_fault hf]

/-! ## Halfword accesses (R92, R93) -/

theorem memReadHalf_backed {a : Word} (h : backed a) (h' : backed (a + 1#32)) (s : State) :
    memReadHalf a s = .ok (s.mem.halfAt a) s := by
  simp [memReadHalf, memReadByte_backed h, memReadByte_backed h', Memory.halfAt]

theorem memReadHalf_unmapped {a : Word} (h : regionOf a = .unmapped) (s : State) :
    memReadHalf a s = .raise .loadAccessFault s := by simp [memReadHalf, memReadByte_unmapped h]

theorem memReadHalf_second_unmapped {a : Word} (h : backed a) (h' : regionOf (a + 1#32) = .unmapped) (s : State) :
    memReadHalf a s = .raise .loadAccessFault s := by
  simp [memReadHalf, memReadByte_backed h, memReadByte_unmapped h']

theorem memReadHalf_uart {a : Word} (h : regionOf a = .uart) (h' : regionOf (a + 1#32) = .uart) (s : State) :
    memReadHalf a s =
      .ok (halfOfBytes (Config.deviceRead s.deviceDraws a) (Config.deviceRead (s.deviceDraws + 1) (a + 1#32)))
        ((s.deviceRead a).deviceRead (a + 1#32)) := by
  simp [memReadHalf, memReadByte_uart h, memReadByte_uart h']

theorem memReadHalf_uart_edge {a : Word} (h : regionOf a = .uart) (h' : regionOf (a + 1#32) = .unmapped) (s : State) :
    memReadHalf a s = .raise .loadAccessFault (s.deviceRead a) := by
  simp [memReadHalf, memReadByte_uart h, memReadByte_unmapped h']

theorem memWriteHalf_uart {a : Word} (h : regionOf a = .uart) (h' : regionOf (a + 1#32) = .uart) (v : Word) (s : State) :
    memWriteHalf a v s = .ok () ((s.deviceWrite a (v.byte 0)).deviceWrite (a + 1#32) (v.byte 1)) := by
  simp [memWriteHalf, memWriteByte_uart h, memWriteByte_uart h']

theorem memWriteHalf_dram {a : Word} (h : regionOf a = .dram) (h' : regionOf (a + 1#32) = .dram) (v : Word) (s : State) :
    memWriteHalf a v s = .ok () ((s.dramWrite a (v.byte 0)).dramWrite (a + 1#32) (v.byte 1)) := by
  simp [memWriteHalf, memWriteByte_dram h, memWriteByte_dram h']

theorem memWriteHalf_fault {a : Word} (h : regionOf a = .rom ∨ regionOf a = .unmapped) (v : Word) (s : State) :
    memWriteHalf a v s = .raise .storeAmoAccessFault s := by simp [memWriteHalf, memWriteByte_fault h]

/-- The second byte faults after the first was written (R93, R326). -/
theorem memWriteHalf_second_fault {a : Word} {b : Byte} {v : Word} {s u : State}
    (h : memWriteByte a b s = .ok () u) (hb : b = v.byte 0) (h' : regionOf (a + 1#32) = .rom ∨ regionOf (a + 1#32) = .unmapped) :
    memWriteHalf a v s = .raise .storeAmoAccessFault u := by
  subst hb; simp [memWriteHalf, h, memWriteByte_fault h']

/-! ## What writes store (R93, R97) -/

theorem StoresBytes.of_eq {a : Word} {bs : List Byte} {s t u : State} (h : StoresBytes a bs s t) (hm : u.mem = t.mem)
    (hr : u.reservation = t.reservation) : StoresBytes a bs s u := by
  unfold StoresBytes SameMemoryOutside at *; rw [hm, hr]; exact h

theorem storesBytes_one (a : Word) (b : Byte) (s : State) : StoresBytes a [b] s (s.dramWrite a b) := by
  refine ⟨fun k x h => ?_, fun c h => ?_, ?_, fun h => ?_⟩
  · match k, h with
    | 0, h => simp_all
    | k + 1, h => simp at h
  · have := h 0 (by simp); simp_all [Memory.read_write]
  · rintro ⟨k, hk, h⟩; simp at hk; subst hk; simp_all
  · have := h 0 (by simp); simp_all

theorem storesBytes_two (a : Word) (b0 b1 : Byte) (s : State) :
    StoresBytes a [b0, b1] s ((s.dramWrite a b0).dramWrite (a + 1#32) b1) := by
  refine ⟨fun k x h => ?_, fun c h => ?_, ?_, fun h => ?_⟩
  · match k, h with
    | 0, h => simp_all [Memory.read_write]
    | 1, h => simp_all
    | k + 2, h => simp at h
  · have := h 0 (by simp); have := h 1 (by simp); simp_all [Memory.read_write]
  · rintro ⟨k, hk, h⟩; simp at hk; interval_cases k <;> simp_all
  · have := h 0 (by simp); have := h 1 (by simp); simp_all

theorem storesBytes_four (a : Word) (b0 b1 b2 b3 : Byte) (s : State) :
    StoresBytes a [b0, b1, b2, b3] s
      ((((s.dramWrite a b0).dramWrite (a + 1#32) b1).dramWrite (a + 2#32) b2).dramWrite (a + 3#32) b3) := by
  refine ⟨fun k x h => ?_, fun c h => ?_, ?_, fun h => ?_⟩
  · match k, h with
    | 0, h => simp_all [Memory.read_write]
    | 1, h => simp_all [Memory.read_write]
    | 2, h => simp_all [Memory.read_write]
    | 3, h => simp_all
    | k + 4, h => simp at h
  · have := h 0 (by simp); have := h 1 (by simp); have := h 2 (by simp); have := h 3 (by simp)
    simp_all [Memory.read_write]
  · rintro ⟨k, hk, h⟩; simp at hk; interval_cases k <;> simp_all
  · have := h 0 (by simp); have := h 1 (by simp); have := h 2 (by simp); have := h 3 (by simp); simp_all

/-! ## What an access can change, whatever the address -/

/-- Reading changes the device's part of the state and nothing else. -/
def ReadChange (s t : State) : Prop := t = { s with deviceEvents := t.deviceEvents, deviceDraws := t.deviceDraws }

theorem ReadChange.refl (s : State) : ReadChange s s := rfl

theorem ReadChange.trans {s t u : State} (h : ReadChange s t) (h' : ReadChange t u) : ReadChange s u := by
  unfold ReadChange at *; rw [h'] ; rw [h]

theorem ReadChange.fields {s t : State} (h : ReadChange s t) :
    t.regs = s.regs ∧ t.pc = s.pc ∧ t.priv = s.priv ∧ t.csr = s.csr ∧ t.justLoaded = s.justLoaded ∧
      t.reservation = s.reservation ∧ t.mem = s.mem ∧ t.params = s.params := by
  rw [h]; exact ⟨rfl, rfl, rfl, rfl, rfl, rfl, rfl, rfl⟩

/-- The state a result carries, if it carries one, is related to `s`. -/
def Result.Leaves {α : Type} (rel : State → State → Prop) (s : State) : Result α → Prop
  | .ok _ t => rel s t
  | .raise _ t => rel s t
  | .refuse _ => False

theorem Result.Leaves.ok {α : Type} {rel : State → State → Prop} {s u : State} {r : Result α} {a : α}
    (hl : r.Leaves rel s) (h : r = .ok a u) : rel s u := by rw [h] at hl; exact hl

theorem Result.Leaves.raise {α : Type} {rel : State → State → Prop} {s u : State} {r : Result α} {e : Exception}
    (hl : r.Leaves rel s) (h : r = .raise e u) : rel s u := by rw [h] at hl; exact hl

/-- A relation that holds across both parts holds across a sequence. -/
theorem Result.Leaves.bind {α β : Type} {rel : State → State → Prop}
    (trans : ∀ a b c, rel a b → rel b c → rel a c) {s : State} {r : Result α} {f : α → State → Result β}
    (h : r.Leaves rel s) (hf : ∀ a u, rel s u → (f a u).Leaves rel u) : (r.bind f).Leaves rel s := by
  cases r with
  | ok a u =>
    have h1 : rel s u := h
    have h2 := hf a u h1
    show Result.Leaves rel s (f a u)
    cases hx : f a u with
    | ok b t => rw [hx] at h2; exact trans _ _ _ h1 h2
    | raise e t => rw [hx] at h2; exact trans _ _ _ h1 h2
    | refuse r => rw [hx] at h2; exact h2
  | raise e u => exact h
  | refuse r => exact h

theorem memReadByte_leaves (a : Word) (s : State) : (memReadByte a s).Leaves ReadChange s := by
  unfold memReadByte; split <;> exact rfl

theorem memReadWord_leaves (a : Word) (s : State) : (memReadWord a s).Leaves ReadChange s := by
  unfold memReadWord; split
  · exact ReadChange.refl s
  · refine Result.Leaves.bind (rel := ReadChange) (fun _ _ _ => ReadChange.trans) (memReadByte_leaves _ _) fun _ _ _ => ?_
    refine Result.Leaves.bind (rel := ReadChange) (fun _ _ _ => ReadChange.trans) (memReadByte_leaves _ _) fun _ _ _ => ?_
    refine Result.Leaves.bind (rel := ReadChange) (fun _ _ _ => ReadChange.trans) (memReadByte_leaves _ _) fun _ _ _ => ?_
    refine Result.Leaves.bind (rel := ReadChange) (fun _ _ _ => ReadChange.trans) (memReadByte_leaves _ _) fun _ _ _ => ReadChange.refl _

theorem memReadHalf_leaves (a : Word) (s : State) : (memReadHalf a s).Leaves ReadChange s := by
  unfold memReadHalf
  refine Result.Leaves.bind (rel := ReadChange) (fun _ _ _ => ReadChange.trans) (memReadByte_leaves _ _) fun _ _ _ => ?_
  refine Result.Leaves.bind (rel := ReadChange) (fun _ _ _ => ReadChange.trans) (memReadByte_leaves _ _) fun _ _ _ => ReadChange.refl _

/-- Writing changes DRAM bytes, may clear the reservation, may add device events, and changes nothing else. -/
structure WriteChange (s t : State) : Prop where
  same : t = { s with mem := t.mem, reservation := t.reservation, deviceEvents := t.deviceEvents }
  reservation : t.reservation = s.reservation ∨ t.reservation = none
  outside : ∀ b : Word, regionOf b ≠ .dram → t.mem.read b = s.mem.read b
  wf : s.mem.wf = true → t.mem.wf = true
  mapped : s.mem.mapped = true → t.mem.mapped = true

theorem WriteChange.refl (s : State) : WriteChange s s := ⟨rfl, .inl rfl, fun _ _ => rfl, id, id⟩

theorem WriteChange.trans {s t u : State} (h : WriteChange s t) (h' : WriteChange t u) : WriteChange s u where
  same := by have := h'.same; rw [h.same] at this; exact this
  reservation := by
    rcases h'.reservation with e | e
    · rw [e]; exact h.reservation
    · exact .inr e
  outside b hb := (h'.outside b hb).trans (h.outside b hb)
  wf := h'.wf ∘ h.wf
  mapped := h'.mapped ∘ h.mapped

theorem WriteChange.fields {s t : State} (h : WriteChange s t) :
    t.regs = s.regs ∧ t.pc = s.pc ∧ t.priv = s.priv ∧ t.csr = s.csr ∧ t.justLoaded = s.justLoaded ∧
      t.deviceDraws = s.deviceDraws ∧ t.params = s.params := by
  rw [h.same]; exact ⟨rfl, rfl, rfl, rfl, rfl, rfl, rfl⟩

theorem writeChange_dramWrite {a : Word} (h : regionOf a = .dram) (b : Byte) (s : State) :
    WriteChange s (s.dramWrite a b) where
  same := rfl
  reservation := by rw [State.dramWrite_reservation]; split; exacts [.inr rfl, .inl rfl]
  outside c hc := Memory.read_write_ne s.mem (fun e => hc (by rw [e]; exact h)) b
  wf hw := Memory.wf_write hw a b
  mapped hm := Memory.mapped_write hm (.inr h) b

theorem memWriteByte_leaves (a : Word) (b : Byte) (s : State) : (memWriteByte a b s).Leaves WriteChange s := by
  unfold memWriteByte; split
  · rename_i h; exact writeChange_dramWrite h b s
  · exact ⟨rfl, .inl rfl, fun _ _ => rfl, id, id⟩
  · exact WriteChange.refl s
  · exact WriteChange.refl s

theorem memWriteHalf_leaves (a v : Word) (s : State) : (memWriteHalf a v s).Leaves WriteChange s :=
  Result.Leaves.bind (rel := WriteChange) (fun _ _ _ => WriteChange.trans) (memWriteByte_leaves _ _ _) fun _ _ _ => memWriteByte_leaves _ _ _

theorem memWriteWord_leaves (a w : Word) (s : State) : (memWriteWord a w s).Leaves WriteChange s := by
  unfold memWriteWord; split
  · exact WriteChange.refl s
  · refine Result.Leaves.bind (rel := WriteChange) (fun _ _ _ => WriteChange.trans) (memWriteByte_leaves _ _ _) fun _ _ _ => ?_
    refine Result.Leaves.bind (rel := WriteChange) (fun _ _ _ => WriteChange.trans) (memWriteByte_leaves _ _ _) fun _ _ _ => ?_
    exact Result.Leaves.bind (rel := WriteChange) (fun _ _ _ => WriteChange.trans) (memWriteByte_leaves _ _ _) fun _ _ _ => memWriteByte_leaves _ _ _

/-- What an access of either kind, and a reservation made or ended, can change. -/
def AccessChange (s t : State) : Prop :=
  t = { s with mem := t.mem, reservation := t.reservation, deviceEvents := t.deviceEvents, deviceDraws := t.deviceDraws }

theorem ReadChange.access {s t : State} (h : ReadChange s t) : AccessChange s t := by
  unfold AccessChange; rw [h]

theorem WriteChange.access {s t : State} (h : WriteChange s t) : AccessChange s t := by
  unfold AccessChange; rw [h.same]

theorem AccessChange.fields {s t : State} (h : AccessChange s t) :
    t.regs = s.regs ∧ t.pc = s.pc ∧ t.priv = s.priv ∧ t.csr = s.csr ∧ t.justLoaded = s.justLoaded ∧
      t.params = s.params := by
  rw [h]; exact ⟨rfl, rfl, rfl, rfl, rfl, rfl⟩

theorem AccessChange.trans {s t u : State} (h : AccessChange s t) (h' : AccessChange t u) : AccessChange s u := by
  unfold AccessChange at *; rw [h'] ; rw [h]

theorem AccessChange.readReg {s t : State} (h : AccessChange s t) (r : RegIdx) : t.readReg r = s.readReg r := by
  unfold State.readReg; rw [h.fields.1]

/-! ## Fetch (R9) -/

theorem fetch_backed {a : Word} (h : aligned4 a = true) (hb : backed a) (s : State) :
    fetch a s = .ok (s.mem.wordAt a) s := by simp [fetch, h, memReadWord_backed h hb]

theorem fetch_uart {a : Word} (h : aligned4 a = true) (hu : regionOf a = .uart) (s : State) :
    fetch a s =
      .ok (wordOfBytes (Config.deviceRead s.deviceDraws a) (Config.deviceRead (s.deviceDraws + 1) (a + 1#32))
        (Config.deviceRead (s.deviceDraws + 2) (a + 2#32)) (Config.deviceRead (s.deviceDraws + 3) (a + 3#32)))
      ((((s.deviceRead a).deviceRead (a + 1#32)).deviceRead (a + 2#32)).deviceRead (a + 3#32)) := by
  simp [fetch, h, memReadWord_uart h hu]

theorem fetch_misaligned {a : Word} (h : aligned4 a = false) (s : State) :
    fetch a s = .raise .instructionAddressMisaligned s := by simp [fetch, h]

theorem fetch_unmapped {a : Word} (h : aligned4 a = true) (hu : regionOf a = .unmapped) (s : State) :
    fetch a s = .raise .instructionAccessFault s := by simp [fetch, h, memReadWord_unmapped h hu]

theorem fetch_leaves (a : Word) (s : State) : (fetch a s).Leaves ReadChange s := by
  unfold fetch; split
  · exact ReadChange.refl s
  · have h := memReadWord_leaves a s
    split <;> (rename_i e; rw [e] at h; exact h)

/-- The loader's write of one byte, and of none. -/
@[simp] theorem Memory.load_nil (m : Memory) (a : Word) : m.load a [] = m := rfl
@[simp] theorem Memory.load_cons (m : Memory) (a : Word) (b : Byte) (bs : List Byte) :
    m.load a (b :: bs) = (m.write a b).load (a + 1#32) bs := rfl

/-! ## A word written and read back -/

/-- Byte `k` of the four written, or what was there. -/
theorem Memory.read_write4 (m : Memory) (a c : Word) (b0 b1 b2 b3 : Byte) :
    ((((m.write a b0).write (a + 1#32) b1).write (a + 2#32) b2).write (a + 3#32) b3).read c =
      if c = a then b0 else if c = a + 1#32 then b1 else if c = a + 2#32 then b2 else if c = a + 3#32 then b3
      else m.read c := by
  simp only [Memory.read_write]
  by_cases h0 : c = a
  · subst h0; simp
  by_cases h1 : c = a + 1#32
  · subst h1; simp
  by_cases h2 : c = a + 2#32
  · subst h2; simp
  simp [h0, h1, h2]

theorem Memory.wordAt_write4 (m : Memory) (a : Word) (b0 b1 b2 b3 : Byte) :
    ((((m.write a b0).write (a + 1#32) b1).write (a + 2#32) b2).write (a + 3#32) b3).wordAt a =
      wordOfBytes b0 b1 b2 b3 := by
  simp [Memory.wordAt, Memory.read_write4]

/-- What the loader placed is what is there (R376). -/
theorem Memory.wordAt_load (m : Memory) (a w : Word) : (m.load a (bytesOfWord w)).wordAt a = w := by
  simp only [bytesOfWord, Memory.load_cons, Memory.load_nil, word_add_11, word_add_21, Memory.wordAt_write4,
    wordOfBytes_byte]

end Sys2Proof.Machine
end

