-- ==== Sys2Proof/Laws/Exec.lean ====
section
/-! SUPPORT. What each shared operation of the meanings does, said once: how it completes, when it raises, and what it
can change. Statements about instructions cite these and unfold no operation. -/

namespace Sys2Proof.Machine

/-! ## The end of an instruction -/

@[simp] theorem complete_ok (s : State) (v : Unit) (u : State) : complete s (.ok v u) = .next u.retire := rfl
@[simp] theorem complete_raise (s : State) (e : Exception) (u : State) :
    complete s (.raise e u) = .next (takeException e s.pc u) := rfl
@[simp] theorem complete_refuse (s : State) (r : Refusal) : complete s (.refuse r) = .refused r := rfl

/-- A next state is a retired one or trap entry. -/
theorem complete_next {s t : State} {r : Result Unit} (h : complete s r = .next t) :
    (∃ u, r = .ok () u ∧ t = u.retire) ∨ ∃ e u, r = .raise e u ∧ t = takeException e s.pc u := by
  cases r with
  | ok v u => cases h; exact .inl ⟨u, rfl, rfl⟩
  | raise e u => cases h; exact .inr ⟨e, u, rfl, rfl⟩
  | refuse r => cases h

/-- A handler that raises with nothing changed traps. -/
theorem complete_traps (s : State) (e : Exception) : Traps (complete s (.raise e s)) s e := rfl

/-! ## Retiring -/

theorem State.sameCsrs_retire (s : State) : SameCsrs s s.retire := fun _ h h' => s.csrAt_retire h h'

/-- Retiring a state with the counter and the flag of `s` steps the counter of `s` (R58). -/
theorem counterStepped_of_eq {s u : State} (hc : u.csr = s.csr) (hj : u.justLoaded = s.justLoaded) :
    CounterStepped s u.retire := by
  have hrc : u.retireCount = s.retireCount := by simp [State.retireCount, State.csrAt, hc]
  have := u.counterStepped_retire
  unfold CounterStepped at *
  rwa [hrc, hj] at this

/-- Retiring a state that has the CSRs, the flag, the mode and the pc of the one the instruction began in. -/
theorem retires_of_ok {s u : State} {pc' : Word} (hc : u.csr = s.csr) (hj : u.justLoaded = s.justLoaded)
    (hp : u.priv = s.priv) (hm : u.params = s.params) (hpc : u.pc + 4#32 = pc') {r : Result Unit}
    (h : r = .ok () u) : Retires (complete s r) s u.retire pc' := by
  have hcs : ∀ i, u.csrAt i = s.csrAt i := fun i => by simp [State.csrAt, hc]
  exact ⟨by rw [h]; rfl, by simpa using hpc, counterStepped_of_eq hc hj,
    fun i h1 h2 => (u.csrAt_retire h1 h2).trans (hcs i), by simpa using hp, by simpa using hm⟩

/-- Writing one register and, it may be, the pc, and retiring. -/
theorem completesWith_of_ok {s : State} (rd : RegIdx) (v a : Word) :
    CompletesWith (complete s (.ok () ((s.writeReg rd v).setPc a))) s rd v (a + 4#32) := by
  have h := retires_of_ok (s := s) (u := (s.writeReg rd v).setPc a) (pc' := a + 4#32) rfl rfl rfl rfl rfl rfl
  exact ⟨_, h.1, fun r => by simp [State.readReg_writeReg], h.2.1, h.2.2.1, h.2.2.2.1, h.2.2.2.2, by simp,
    fun b => by simp, by simp [SameDevice]⟩

theorem CompletesWith.of_eq {o : Host.Outcome State Fault Refusal} {s : State} {rd : RegIdx} {v v' pc pc' : Word}
    (h : CompletesWith o s rd v pc) (hv : v = v') (hpc : pc = pc') : CompletesWith o s rd v' pc' := hv ▸ hpc ▸ h

/-- A handler that ends with memory, the reservation and the device changed, and one register written. -/
theorem retires_of_access {s u : State} (hu : AccessChange s u) {rd : RegIdx} {v : Word} {r : Result Unit}
    (h : r = .ok () (u.writeReg rd v)) :
    Retires (complete s r) s (u.writeReg rd v).retire (s.pc + 4#32) ∧ WritesReg rd v s (u.writeReg rd v).retire := by
  have f := hu.fields
  exact ⟨retires_of_ok (u := u.writeReg rd v) f.2.2.2.1 f.2.2.2.2.1 f.2.2.1 f.2.2.2.2.2 (by simp [f.2.1]) h,
    fun q => by simp [State.readReg_writeReg, hu.readReg]⟩

/-- The same with no register written. -/
theorem retires_of_access_only {s u : State} (hu : AccessChange s u) {r : Result Unit} (h : r = .ok () u) :
    Retires (complete s r) s u.retire (s.pc + 4#32) ∧ SameRegs s u.retire := by
  have f := hu.fields
  exact ⟨retires_of_ok f.2.2.2.1 f.2.2.2.2.1 f.2.2.1 f.2.2.2.2.2 (by simp [f.2.1]) h, fun q => by simp [hu.readReg]⟩

/-! ## The shared operations of the integer, load and store, and control families -/

theorem writeResult_completes (rd : RegIdx) (v : Word) (s : State) :
    CompletesWith (writeResult rd v s) s rd v (s.pc + 4#32) := completesWith_of_ok rd v s.pc

theorem regImm_completes (f : Word → Word → Word) (rd rs1 : RegIdx) (imm : BitVec 12) (s : State) :
    CompletesWith (regImm f rd rs1 imm s) s rd (f (s.readReg rs1) (immI imm)) (s.pc + 4#32) :=
  writeResult_completes rd _ s

theorem regShamt_completes (f : Word → Nat → Word) (rd rs1 : RegIdx) (shamt : BitVec 5) (s : State) :
    CompletesWith (regShamt f rd rs1 shamt s) s rd (f (s.readReg rs1) shamt.toNat) (s.pc + 4#32) :=
  writeResult_completes rd _ s

theorem regReg_completes (f : Word → Word → Word) (rd rs1 rs2 : RegIdx) (s : State) :
    CompletesWith (regReg f rd rs1 rs2 s) s rd (f (s.readReg rs1) (s.readReg rs2)) (s.pc + 4#32) :=
  writeResult_completes rd _ s

/-- A no-op retires and writes nothing. -/
theorem noop_completes (s : State) : CompletesWith (complete s (.ok () s)) s 0#5 0#32 (s.pc + 4#32) :=
  completesWith_of_ok 0#5 0#32 s.pc

/-- A branch goes to its target or on, and writes nothing. -/
theorem branch_completes (condition : Word → Word → Bool) (rs1 rs2 : RegIdx) (imm : BitVec 13) (s : State) :
    CompletesWith (branch condition rs1 rs2 imm s) s 0#5 0#32
      (if condition (s.readReg rs1) (s.readReg rs2) = true then s.pc + imm.signExtend 32 else s.pc + 4#32) := by
  unfold branch
  split
  · have h := completesWith_of_ok (s := s) 0#5 0#32 (s.pc + immB imm - 4#32)
    rw [BitVec.sub_add_cancel] at h; exact h
  · exact noop_completes s

theorem jumpAndLink_completes {target : Word} (h : aligned4 target = true) (rd : RegIdx) (s : State) :
    CompletesWith (jumpAndLink rd target s) s rd (s.pc + 4#32) target := by
  unfold jumpAndLink
  rw [if_neg (by simp [h])]
  have h := completesWith_of_ok (s := s) rd (s.pc + 4#32) (target - 4#32)
  rw [BitVec.sub_add_cancel] at h; exact h

theorem jumpAndLink_traps {target : Word} (h : aligned4 target = false) (rd : RegIdx) (s : State) :
    Traps (jumpAndLink rd target s) s .instructionAddressMisaligned := by
  unfold jumpAndLink; rw [if_pos h]; rfl

/-- A load whose read changes nothing: its value, extended, in `x[rd]`. -/
theorem load_completes {α : Type} {access : Word → State → Result α} {extend : α → Word} {rd rs1 : RegIdx}
    {imm : BitVec 12} {s : State} {v : α} (h : access (loadAddress s rs1 imm) s = .ok v s) :
    CompletesWith (load access extend rd rs1 imm s) s rd (extend v) (s.pc + 4#32) := by
  unfold load; rw [h]; exact writeResult_completes rd _ s

/-- A load whose read the device may have seen. -/
theorem load_retires {α : Type} {access : Word → State → Result α} {extend : α → Word} {rd rs1 : RegIdx}
    {imm : BitVec 12} {s u : State} {v : α} (h : access (loadAddress s rs1 imm) s = .ok v u) (hu : ReadChange s u) :
    Retires (load access extend rd rs1 imm s) s (u.writeReg rd (extend v)).retire (s.pc + 4#32) ∧
      WritesReg rd (extend v) s (u.writeReg rd (extend v)).retire :=
  retires_of_access hu.access (by rw [h]; rfl)

theorem load_traps {α : Type} {access : Word → State → Result α} {extend : α → Word} {rd rs1 : RegIdx}
    {imm : BitVec 12} {s u : State} {e : Exception} (h : access (loadAddress s rs1 imm) s = .raise e u) :
    load access extend rd rs1 imm s = .next (takeException e s.pc u) := by
  unfold load; rw [h]; rfl

/-- A store that its access completes. -/
theorem store_retires {access : Word → Word → State → Result Unit} {rs1 rs2 : RegIdx} {imm : BitVec 12} {s u : State}
    (h : access (storeAddress s rs1 imm) (s.readReg rs2) s = .ok () u) (hu : WriteChange s u) :
    Retires (store access rs1 rs2 imm s) s u.retire (s.pc + 4#32) ∧ SameRegs s u.retire :=
  retires_of_access_only hu.access h

theorem store_traps {access : Word → Word → State → Result Unit} {rs1 rs2 : RegIdx} {imm : BitVec 12} {s u : State}
    {e : Exception} (h : access (storeAddress s rs1 imm) (s.readReg rs2) s = .raise e u) :
    store access rs1 rs2 imm s = .next (takeException e s.pc u) := by
  unfold store; rw [h]; rfl

/-! ## Atomics -/

/-- An AMO whose read and write complete, wherever. -/
theorem amo_eq {f : Word → Word → Word} {rd rs1 rs2 : RegIdx} {s u t : State} {old : Word}
    (hr : memReadWord (s.readReg rs1) s = .ok old u)
    (hw : memWriteWord (s.readReg rs1) (f old (s.readReg rs2)) u = .ok () t) :
    Retires (amo f rd rs1 rs2 s) s (t.writeReg rd old).retire (s.pc + 4#32) ∧
      WritesReg rd old s (t.writeReg rd old).retire := by
  have h1 := (memReadWord_leaves (s.readReg rs1) s).ok hr
  have h2 := (memWriteWord_leaves (s.readReg rs1) (f old (s.readReg rs2)) u).ok hw
  exact retires_of_access (h1.access.trans h2.access) (by rw [hr, Result.bind_ok, hw]; rfl)

/-- An AMO on a word in DRAM: the old word to `x[rd]`, the new one to memory. -/
theorem amo_retires {f : Word → Word → Word} {rd rs1 rs2 : RegIdx} {s : State} {v : Word}
    (h : aligned4 (s.readReg rs1) = true) (hd : regionOf (s.readReg rs1) = .dram)
    (hv : f (s.mem.wordAt (s.readReg rs1)) (s.readReg rs2) = v) :
    ∃ t, Retires (amo f rd rs1 rs2 s) s t (s.pc + 4#32) ∧ WritesReg rd (s.mem.wordAt (s.readReg rs1)) s t ∧
      StoresBytes (s.readReg rs1) [v.extractLsb' 0 8, v.extractLsb' 8 8, v.extractLsb' 16 8, v.extractLsb' 24 8] s t ∧
      SameDevice s t := by
  subst hv
  have hw := memWriteWord_dram h hd (f (s.mem.wordAt (s.readReg rs1)) (s.readReg rs2)) s
  have key := amo_eq (f := f) (rd := rd) (rs2 := rs2) (memReadWord_backed h (.inr hd) s) hw
  exact ⟨_, key.1, key.2, (storesBytes_four _ _ _ _ _ _).of_eq (State.retire_mem _) (State.retire_reservation _),
    by simp [SameDevice]⟩

theorem amo_traps_misaligned {f : Word → Word → Word} {rd rs1 rs2 : RegIdx} {s : State}
    (h : aligned4 (s.readReg rs1) = false) : Traps (amo f rd rs1 rs2 s) s .loadAddressMisaligned := by
  simp [amo, memReadWord_misaligned h, Traps]

theorem amo_traps_unmapped {f : Word → Word → Word} {rd rs1 rs2 : RegIdx} {s : State}
    (h : aligned4 (s.readReg rs1) = true) (hu : regionOf (s.readReg rs1) = .unmapped) :
    Traps (amo f rd rs1 rs2 s) s .loadAccessFault := by
  simp [amo, memReadWord_unmapped h hu, Traps]

theorem amo_traps_rom {f : Word → Word → Word} {rd rs1 rs2 : RegIdx} {s : State}
    (h : aligned4 (s.readReg rs1) = true) (hr : regionOf (s.readReg rs1) = .rom) :
    Traps (amo f rd rs1 rs2 s) s .storeAmoAccessFault := by
  simp [amo, memReadWord_backed h (.inl hr), memWriteWord_fault h (.inl hr), Traps]

theorem loadReserved_ok {rd rs1 : RegIdx} {s u : State} {w : Word} (h : memReadWord (s.readReg rs1) s = .ok w u) :
    loadReserved rd rs1 s = .ok () ((u.reserve (s.readReg rs1)).writeReg rd w) := by
  unfold loadReserved; rw [h]; rfl

theorem loadReserved_raise {rd rs1 : RegIdx} {s u : State} {e : Exception}
    (h : memReadWord (s.readReg rs1) s = .raise e u) : loadReserved rd rs1 s = .raise e u := by
  unfold loadReserved; rw [h]; rfl

/-- No matching reservation: 1, and the reservation is gone (R261). -/
theorem storeConditional_fails {rd rs1 rs2 : RegIdx} {s : State} (h : s.reservation ≠ some (s.readReg rs1)) :
    storeConditional rd rs1 rs2 s = .ok () (s.invalidateReservation.writeReg rd 1#32) := by
  unfold storeConditional; rw [if_neg (by simpa [State.isReserved] using h)]

theorem storeConditional_ok {rd rs1 rs2 : RegIdx} {s u : State} (h : s.reservation = some (s.readReg rs1))
    (hw : memWriteWord (s.readReg rs1) (s.readReg rs2) s = .ok () u) :
    storeConditional rd rs1 rs2 s = .ok () (u.invalidateReservation.writeReg rd 0#32) := by
  unfold storeConditional; rw [if_pos (by simp [State.isReserved, h]), hw]

theorem storeConditional_raise {rd rs1 rs2 : RegIdx} {s u : State} {e : Exception}
    (h : s.reservation = some (s.readReg rs1))
    (hw : memWriteWord (s.readReg rs1) (s.readReg rs2) s = .raise e u) :
    storeConditional rd rs1 rs2 s = .raise e u.invalidateReservation := by
  unfold storeConditional; rw [if_pos (by simp [State.isReserved, h]), hw]

/-! ## CSR accesses -/

/-- An allowed write form: the old word to `x[rd]`, the new one through the transforms. -/
theorem csrSwap_eq {rd : RegIdx} {csr : CsrIdx} {src : Word} {s : State} (h : csrTier csr ≤ s.priv.level)
    (h' : csrReadOnly csr = false) :
    csrSwap rd csr src s = .next (((s.csrWriteRaw csr src).writeReg rd (s.csrReadRaw csr)).retire) := by
  unfold csrSwap
  split
  · rename_i h0; subst h0; rw [csrWrite_ok h h']; rfl
  · simp [csrRead_ok h, csrWrite_ok h h']

theorem csrSwap_traps {rd : RegIdx} {csr : CsrIdx} {src : Word} {s : State}
    (h : s.priv.level < csrTier csr ∨ csrReadOnly csr = true) : Traps (csrSwap rd csr src s) s illegal := by
  unfold csrSwap
  split
  · rw [csrWrite_raise h]; rfl
  · by_cases ht : s.priv.level < csrTier csr
    · rw [csrRead_raise ht]; rfl
    · rw [csrRead_ok (by omega), Result.bind_ok, csrWrite_raise h]; rfl

/-- An allowed set or clear form that writes. -/
theorem csrModify_eq {f : Word → Word} {rd : RegIdx} {csr : CsrIdx} {s : State} (h : csrTier csr ≤ s.priv.level)
    (h' : csrReadOnly csr = false) :
    csrModify f false rd csr s =
      .next (((s.csrWriteRaw csr (f (s.csrReadRaw csr))).writeReg rd (s.csrReadRaw csr)).retire) := by
  simp [csrModify, csrRead_ok h, csrWrite_ok h h']

/-- An allowed set or clear form with a zero field: a read alone. -/
theorem csrModify_read {f : Word → Word} {rd : RegIdx} {csr : CsrIdx} {s : State} (h : csrTier csr ≤ s.priv.level) :
    csrModify f true rd csr s = .next ((s.writeReg rd (s.csrReadRaw csr)).retire) := by
  simp [csrModify, csrRead_ok h]

theorem csrModify_traps {f : Word → Word} {z : Bool} {rd : RegIdx} {csr : CsrIdx} {s : State}
    (h : s.priv.level < csrTier csr ∨ (csrReadOnly csr = true ∧ z = false)) :
    Traps (csrModify f z rd csr s) s illegal := by
  unfold csrModify
  by_cases ht : s.priv.level < csrTier csr
  · rw [csrRead_raise ht]; rfl
  · obtain ⟨hr, rfl⟩ := h.resolve_left ht
    rw [csrRead_ok (by omega), Result.bind_ok, if_neg (by decide), csrWrite_raise (.inr hr)]; rfl

/-! ## The return from an exception -/

theorem Priv.ofBits_bits (p : Priv) : Priv.ofBits p.bits = some p := by cases p <;> rfl

theorem Priv.bits_of_ofBits {b : BitVec 2} {p : Priv} (h : Priv.ofBits b = some p) : b = p.bits := by
  revert h; revert p; revert b; decide

/-- Below Machine mode the access to `mstatus` fails (R312, R39). -/
theorem returnFromException_below {s : State} (h : s.priv ≠ .machine) :
    returnFromException s = .raise illegal s := by
  have : s.priv.level < csrTier csrMstatus := by revert h; cases s.priv <;> decide
  simp [returnFromException, mstatusRef, this]

/-- In Machine mode, MPP naming a level (R312). -/
theorem returnFromException_machine {s : State} (h : s.priv = .machine) {p : Priv}
    (hp : getMpp (s.csrAt csrMstatus) = p.bits) :
    returnFromException s =
      .ok () (((s.csrWriteRaw csrMstatus (mstatusOnMret (s.csrAt csrMstatus))).setPriv p).jumpTo (s.csrAt csrMepc)) := by
  have ht : ¬ s.priv.level < csrTier csrMstatus := by rw [h]; decide
  simp [returnFromException, mstatusRef, ht, hp, Priv.ofBits_bits, State.csrAt_csrWriteRaw,
    show ¬ csrMepc = csrWriteTarget csrMstatus by decide]

theorem returnFromException_reserved {s : State} (h : s.priv = .machine) (hp : getMpp (s.csrAt csrMstatus) = 2#2) :
    returnFromException s = .refuse .mretReservedMpp := by
  have ht : ¬ s.priv.level < csrTier csrMstatus := by rw [h]; decide
  simp [returnFromException, mstatusRef, ht, hp, show Priv.ofBits 2#2 = none from rfl]

end Sys2Proof.Machine
end

