-- ==== Sys2Proof/Laws/Change.lean ====
section
/-! SUPPORT. What a handler can change, said once for every instruction: `exec i s` is `complete s r` for a handler's
result `r`, and the state in `r` differs from `s` as `HandlerChange` says. Frames and invariants follow from it. -/

namespace Sys2Proof.Machine

/-- Registers: x0's slot is never written, and only the instruction's destination may be. -/
structure RegsChange (i : Instr) (s u : State) : Prop where
  slot0 : u.regs[0] = s.regs[0]
  regs  : ∀ r : RegIdx, destination i ≠ some r → u.readReg r = s.readReg r

/-- Memory and the reservation. -/
structure MemChange (i : Instr) (s u : State) : Prop where
  memSame    : storesMemory i = false → u.mem = s.mem
  memOutside : ∀ b : Word, regionOf b ≠ .dram → u.mem.read b = s.mem.read b
  memWf      : s.mem.wf = true → u.mem.wf = true
  memMapped  : s.mem.mapped = true → u.mem.mapped = true
  resvSame   : storesMemory i = false → (∀ rd rs1 rs2 aq rl, i ≠ .lrW rd rs1 rs2 aq rl) →
    u.reservation = s.reservation
  resvLost   : storesMemory i = true → u.reservation = s.reservation ∨ u.reservation = none
  resvMade   : ∀ a : Word, u.reservation = some a →
    s.reservation = some a ∨ (aligned4 a = true ∧ regionOf a ≠ .unmapped)

/-- The CSR bank: nothing above the level's tier, nothing read-only, `mepc` a multiple of 4, `sstatus` no storage. -/
structure CsrChange (s u : State) : Prop where
  tier     : ∀ j : CsrIdx, s.priv.level < csrTier j → u.csrAt j = s.csrAt j ∨
    (j = csrMstatus ∧ s.priv = .supervisor ∧
      u.csrAt j &&& ~~~s.params.sstatusMask = s.csrAt j &&& ~~~s.params.sstatusMask)
  wf       : CsrBank.wf s.csr = true → CsrBank.wf u.csr = true
  mepc     : aligned4 (s.csrAt csrMepc) = true → aligned4 (u.csrAt csrMepc) = true
  readOnly : ∀ j : CsrIdx, csrReadOnly j = true → u.csrAt j = s.csrAt j
  sstatus  : u.csrAt csrSstatus = s.csrAt csrSstatus

structure HandlerChange (i : Instr) (s u : State) : Prop where
  regs   : RegsChange i s u
  mem    : MemChange i s u
  csr    : CsrChange s u
  params : u.params = s.params
  priv   : i ≠ .mret → u.priv = s.priv
  pc     : i.wellFormed = true → aligned4 (s.csrAt csrMepc) = true → s.pc.getLsbD 0 = false → u.pc.getLsbD 0 = false

/-! ## Parts -/

theorem RegsChange.same {i : Instr} {s u : State} (h : u.regs = s.regs) : RegsChange i s u :=
  ⟨by rw [h], fun r _ => by unfold State.readReg; rw [h]⟩

theorem RegsChange.write {i : Instr} {s u : State} {rd : RegIdx} {v : Word} (h : u.regs = (s.writeReg rd v).regs)
    (hd : destination i = some rd) : RegsChange i s u := by
  constructor
  · rw [h, State.writeReg_regs]
    split
    · rfl
    · rename_i h0
      have : ¬ rd.toNat = 0 := fun e => h0 (BitVec.eq_of_toNat_eq e)
      simp [this]
  · intro r hr
    have e : u.readReg r = (s.writeReg rd v).readReg r := by unfold State.readReg; rw [h]
    rw [e, State.readReg_writeReg, if_neg]
    rintro ⟨rfl, _⟩; exact hr hd

theorem MemChange.same {i : Instr} {s u : State} (h : u.mem = s.mem) (hr : u.reservation = s.reservation) :
    MemChange i s u :=
  ⟨fun _ => h, fun b _ => by rw [h], by rw [h]; exact id, by rw [h]; exact id, fun _ _ => hr, fun _ => .inl hr,
    fun a ha => .inl (hr ▸ ha)⟩

/-- Stored, and the reservation kept or lost. -/
theorem MemChange.store {i : Instr} {s t u : State} (hi : storesMemory i = true) (h : WriteChange s t)
    (hm : u.mem = t.mem) (hr : u.reservation = t.reservation ∨ u.reservation = none) : MemChange i s u := by
  have hr' : u.reservation = s.reservation ∨ u.reservation = none := by
    rcases hr with e | e
    · rw [e]; exact h.reservation
    · exact .inr e
  refine ⟨fun e => absurd (hi.symm.trans e) (by decide), fun b hb => by rw [hm]; exact h.outside b hb,
    by rw [hm]; exact h.wf, by rw [hm]; exact h.mapped, fun e => absurd (hi.symm.trans e) (by decide), fun _ => hr',
    fun a ha => ?_⟩
  rcases hr' with e | e
  · exact .inl (e ▸ ha)
  · rw [e] at ha; cases ha

theorem CsrChange.same {s u : State} (h : u.csr = s.csr) : CsrChange s u := by
  have e : ∀ j, u.csrAt j = s.csrAt j := fun j => by unfold State.csrAt; rw [h]
  exact ⟨fun j _ => .inl (e j), by rw [h]; exact id, by rw [e]; exact id, fun j _ => e j, e _⟩

theorem aligned4_clearLow2 (v : Word) : aligned4 (clearLow2 v) = true := by
  unfold aligned4 clearLow2
  rw [beq_iff_eq]
  apply BitVec.eq_of_getLsbD_eq
  intro i hi
  rw [BitVec.getLsbD_extractLsb', BitVec.getLsbD_and]
  interval_cases i <;> simp

/-- What a masked write leaves of the bits outside the mask (R42). -/
theorem masked_view (m v mask : Word) : ((m &&& ~~~mask) ||| (v &&& mask)) &&& ~~~mask = m &&& ~~~mask := by
  apply BitVec.eq_of_getLsbD_eq
  intro i hi
  simp only [BitVec.getLsbD_and, BitVec.getLsbD_or, BitVec.getLsbD_not]
  cases m.getLsbD i <;> cases v.getLsbD i <;> cases mask.getLsbD i <;> simp

/-- A write that the checks of R35 let through. -/
theorem CsrChange.write {s u : State} {i : CsrIdx} {v : Word} (h : u.csr = (s.csrWriteRaw i v).csr)
    (ht : csrTier i ≤ s.priv.level) (hr : csrReadOnly i = false) : CsrChange s u := by
  have e : ∀ j, u.csrAt j = (s.csrWriteRaw i v).csrAt j := fun j => by unfold State.csrAt; rw [h]
  have hne : ∀ j, j ≠ csrWriteTarget i → u.csrAt j = s.csrAt j := fun j hj => by
    rw [e, State.csrAt_csrWriteRaw, if_neg hj]
  refine ⟨fun j hj => ?_, by rw [h]; exact fun hw => State.csrWf_csrWriteRaw hw i v, fun ha => ?_,
    fun j hj => hne j ?_, hne _ ?_⟩
  · by_cases hji : j = csrWriteTarget i
    · subst hji
      by_cases hi : i = csrSstatus
      · subst hi
        refine .inr ⟨by decide, by revert ht hj; cases s.priv <;> decide, ?_⟩
        rw [e, State.csrAt_csrWriteRaw, if_pos rfl]
        show ((s.csrAt csrMstatus &&& ~~~s.params.sstatusMask) ||| (v &&& s.params.sstatusMask)) &&& _ = _
        exact masked_view _ _ _
      · rw [csrWriteTarget_of_ne hi] at hj; omega
    · exact .inl (hne j hji)
  · by_cases hi : csrMepc = csrWriteTarget i
    · have : i = csrMepc := by
        unfold csrWriteTarget at hi; split at hi
        · exact absurd hi (by decide)
        · exact hi.symm
      subst this
      rw [e, State.csrAt_csrWriteRaw, if_pos (by decide), State.csrWriteValue_mepc]
      exact aligned4_clearLow2 v
    · rw [hne _ hi]; exact ha
  · rintro rfl
    unfold csrWriteTarget at hj
    split at hj
    · exact absurd hj (by decide)
    · rw [hr] at hj; cases hj
  · unfold csrWriteTarget
    split
    · decide
    · rename_i hi; exact Ne.symm hi

/-! ## Whole handlers -/

/-- The result's state, if it carries one, is related to `s`; a refusal carries none. -/
def Result.Within {α : Type} (rel : State → State → Prop) (s : State) : Result α → Prop
  | .ok _ u => rel s u
  | .raise _ u => rel s u
  | .refuse _ => True

/-- The registers and the pc alone. -/
theorem HandlerChange.of_regs {i : Instr} {s u : State} (h : u = { s with regs := u.regs, pc := u.pc })
    (hr : RegsChange i s u)
    (hpc : i.wellFormed = true → aligned4 (s.csrAt csrMepc) = true → s.pc.getLsbD 0 = false → u.pc.getLsbD 0 = false) :
    HandlerChange i s u :=
  ⟨hr, .same (by rw [h]) (by rw [h]), .same (by rw [h]), by rw [h], fun _ => by rw [h], hpc⟩

theorem HandlerChange.refl (i : Instr) (s : State) : HandlerChange i s s :=
  .of_regs rfl (.same rfl) fun _ _ => id

/-- An access, and it may be a register after it. -/
theorem HandlerChange.of_access {i : Instr} {s m u : State} (h : AccessChange s m) (hp : u.pc = m.pc)
    (hv : u.priv = m.priv) (hc : u.csr = m.csr) (hq : u.params = m.params) (hr : RegsChange i s u)
    (hm : MemChange i s u) : HandlerChange i s u :=
  have f := h.fields
  ⟨hr, hm, .same (hc.trans f.2.2.2.1), hq.trans f.2.2.2.2.2, fun _ => hv.trans f.2.2.1, fun _ _ => by
    rw [hp, f.2.1]; exact id⟩

theorem writeResult_change {i : Instr} {rd : RegIdx} (hd : destination i = some rd) (v : Word) (s : State) :
    HandlerChange i s (s.writeReg rd v) := .of_regs rfl (.write rfl hd) fun _ _ => id

/-- A load: a raised read has changed no register. -/
theorem load_change {i : Instr} {rd : RegIdx} (hd : destination i = some rd) {α : Type} {r : Result α}
    {extend : α → Word} {s : State} (hr : r.Leaves ReadChange s) :
    (r.bind fun v u => .ok () (u.writeReg rd (extend v)) : Result Unit).Within (HandlerChange i) s := by
  cases r with
  | ok v u =>
    have h : ReadChange s u := hr
    have f := h.fields
    exact .of_access h.access rfl rfl rfl rfl (.write (v := extend v) (by simp [f.1]) hd)
      (.same f.2.2.2.2.2.2.1 f.2.2.2.2.2.1)
  | raise e u =>
    have h : ReadChange s u := hr
    have f := h.fields
    exact .of_access h.access rfl rfl rfl rfl (.same f.1) (.same f.2.2.2.2.2.2.1 f.2.2.2.2.2.1)
  | refuse r => trivial

theorem store_change {i : Instr} (hi : storesMemory i = true) {r : Result Unit} {s : State}
    (hr : r.Leaves WriteChange s) : r.Within (HandlerChange i) s := by
  cases r with
  | ok v u =>
    have h : WriteChange s u := hr
    exact .of_access h.access rfl rfl rfl rfl (.same h.fields.1) (.store hi h rfl (.inl rfl))
  | raise e u =>
    have h : WriteChange s u := hr
    exact .of_access h.access rfl rfl rfl rfl (.same h.fields.1) (.store hi h rfl (.inl rfl))
  | refuse r => trivial

theorem amo_change {i : Instr} (hi : storesMemory i = true) {rd : RegIdx} (hd : destination i = some rd)
    (f : Word → Word → Word) (a src : Word) (s : State) :
    ((memReadWord a s).bind fun old s1 =>
      (memWriteWord a (f old src) s1).bind fun _ s2 => .ok () (s2.writeReg rd old) : Result Unit).Within
      (HandlerChange i) s := by
  have hr := memReadWord_leaves a s
  cases hx : memReadWord a s with
  | ok old u =>
    have h : ReadChange s u := hr.ok hx
    have hf := h.fields
    have hw := memWriteWord_leaves a (f old src) u
    rw [Result.bind_ok]
    have lift : ∀ t, WriteChange u t → ∀ w : State, w.mem = t.mem → w.reservation = t.reservation →
        MemChange i s w := by
      intro t ht w hwm hwr
      have m : MemChange i u w := .store hi ht hwm (.inl hwr)
      have e1 := hf.2.2.2.2.2.2.1
      have e2 := hf.2.2.2.2.2.1
      exact ⟨e1 ▸ m.memSame, e1 ▸ m.memOutside, e1 ▸ m.memWf, e1 ▸ m.memMapped, e2 ▸ m.resvSame, e2 ▸ m.resvLost,
        e2 ▸ m.resvMade⟩
    cases hy : memWriteWord a (f old src) u with
    | ok v t =>
      have ht : WriteChange u t := hw.ok hy
      exact .of_access (h.access.trans ht.access) rfl rfl rfl rfl
        (.write (v := old) (by simp [ht.fields.1, hf.1]) hd) (lift t ht _ rfl rfl)
    | raise e t =>
      have ht : WriteChange u t := hw.raise hy
      exact .of_access (h.access.trans ht.access) rfl rfl rfl rfl (.same (ht.fields.1.trans hf.1)) (lift t ht _ rfl rfl)
    | refuse r => trivial
  | raise e u =>
    have h : ReadChange s u := hr.raise hx
    have hf := h.fields
    exact .of_access h.access rfl rfl rfl rfl (.same hf.1) (.same hf.2.2.2.2.2.2.1 hf.2.2.2.2.2.1)
  | refuse r => trivial

theorem memReadWord_ok_readable {a : Word} {s u : State} {w : Word} (h : memReadWord a s = .ok w u) :
    aligned4 a = true ∧ regionOf a ≠ .unmapped := by
  cases ha : aligned4 a with
  | false => rw [memReadWord_misaligned ha] at h; cases h
  | true =>
    refine ⟨rfl, fun hu => ?_⟩
    rw [memReadWord_unmapped ha hu] at h; cases h

theorem loadReserved_change (rd rs1 rs2 : RegIdx) (aq rl : Bool) (s : State) :
    (loadReserved rd rs1 s).Within (HandlerChange (.lrW rd rs1 rs2 aq rl)) s := by
  have hr := memReadWord_leaves (s.readReg rs1) s
  unfold loadReserved
  cases hx : memReadWord (s.readReg rs1) s with
  | ok v u =>
    have h : ReadChange s u := hr.ok hx
    have f := h.fields
    refine .of_access h.access rfl rfl rfl rfl (.write (rd := rd) (v := v) (by simp [f.1]) rfl) ?_
    refine ⟨fun _ => f.2.2.2.2.2.2.1, fun b _ => by simp [f.2.2.2.2.2.2.1], by simp [f.2.2.2.2.2.2.1],
      by simp [f.2.2.2.2.2.2.1], fun _ hn => absurd rfl (hn rd rs1 rs2 aq rl), (fun h => by cases h), fun a ha => ?_⟩
    simp at ha; subst ha
    exact .inr (memReadWord_ok_readable hx)
  | raise e u =>
    have h : ReadChange s u := hr.raise hx
    have f := h.fields
    exact .of_access h.access rfl rfl rfl rfl (.same f.1) (.same f.2.2.2.2.2.2.1 f.2.2.2.2.2.1)
  | refuse r => trivial

theorem storeConditional_change (rd rs1 rs2 : RegIdx) (aq rl : Bool) (s : State) :
    (storeConditional rd rs1 rs2 s).Within (HandlerChange (.scW rd rs1 rs2 aq rl)) s := by
  unfold storeConditional
  split
  · have hw := memWriteWord_leaves (s.readReg rs1) (s.readReg rs2) s
    cases hx : memWriteWord (s.readReg rs1) (s.readReg rs2) s with
    | ok v u =>
      have h : WriteChange s u := hw.ok hx
      exact .of_access h.access rfl rfl rfl rfl (.write (rd := rd) (v := 0#32) (by simp [h.fields.1]) rfl)
        (.store rfl h rfl (.inr rfl))
    | raise e u =>
      have h : WriteChange s u := hw.raise hx
      exact .of_access h.access rfl rfl rfl rfl (.same h.fields.1) (.store rfl h rfl (.inr rfl))
    | refuse r => trivial
  · exact .of_access (m := s) rfl rfl rfl rfl rfl (.write (rd := rd) (v := 1#32) (by simp) rfl)
      (.store rfl (.refl s) rfl (.inr rfl))

/-- A CSR write that was let through, and a register. -/
theorem csrWrite_change {i : Instr} {rd : RegIdx} (hd : destination i = some rd) {csr : CsrIdx} {v old : Word} {s : State}
    (h : csrTier csr ≤ s.priv.level) (h' : csrReadOnly csr = false) :
    HandlerChange i s ((s.csrWriteRaw csr v).writeReg rd old) :=
  ⟨.write (v := old) (by simp) hd, .same (by simp) (by simp), .write (i := csr) (v := v) (by simp) h h', by simp,
    fun _ => by simp, fun _ _ => by simp⟩

theorem csrSwap_change {i : Instr} {rd : RegIdx} (hd : destination i = some rd) (csr : CsrIdx) (src : Word) (s : State) :
    ∃ r, csrSwap rd csr src s = complete s r ∧ r.Within (HandlerChange i) s := by
  by_cases h : s.priv.level < csrTier csr ∨ csrReadOnly csr = true
  · exact ⟨.raise illegal s, csrSwap_traps h, .refl i s⟩
  · rw [not_or] at h
    have h1 : csrTier csr ≤ s.priv.level := by omega
    have h2 : csrReadOnly csr = false := by simpa using h.2
    exact ⟨.ok () ((s.csrWriteRaw csr src).writeReg rd (s.csrReadRaw csr)), csrSwap_eq h1 h2, csrWrite_change hd h1 h2⟩

theorem csrModify_change {i : Instr} {rd : RegIdx} (hd : destination i = some rd) (f : Word → Word) (z : Bool)
    (csr : CsrIdx) (s : State) :
    ∃ r, csrModify f z rd csr s = complete s r ∧ r.Within (HandlerChange i) s := by
  by_cases h : s.priv.level < csrTier csr ∨ (csrReadOnly csr = true ∧ z = false)
  · exact ⟨.raise illegal s, csrModify_traps h, .refl i s⟩
  · rw [not_or] at h
    have h1 : csrTier csr ≤ s.priv.level := by omega
    cases z with
    | true => exact ⟨.ok () (s.writeReg rd (s.csrReadRaw csr)), csrModify_read h1, writeResult_change hd _ s⟩
    | false =>
      have h2 : csrReadOnly csr = false := by simpa using h.2
      exact ⟨.ok () _, csrModify_eq h1 h2, csrWrite_change hd h1 h2⟩

/-! ## Pcs stay even -/

theorem even_add {a b : Word} (ha : a.getLsbD 0 = false) (hb : b.getLsbD 0 = false) : (a + b).getLsbD 0 = false := by
  have := BitVec.getLsbD_add (i := 0) (by decide) a b
  rw [this, ha, hb]; simp

theorem even_of_aligned4 {a : Word} (h : aligned4 a = true) : a.getLsbD 0 = false := by
  have := congrArg (fun x => x.getLsbD 0) (eq_of_beq h)
  simpa using this

theorem even_sub4 {a : Word} (h : a.getLsbD 0 = false) : (a - 4#32).getLsbD 0 = false := by
  rw [BitVec.sub_eq_add_neg]; exact even_add h (by decide)

theorem even_signExtend {n : Nat} {x : BitVec n} (hn : 0 < n) (h : evenOffset x = true) :
    (x.signExtend 32 : Word).getLsbD 0 = false := by
  unfold evenOffset at h
  rw [BitVec.getLsbD_signExtend]; simpa [hn] using h

theorem branch_change {i : Instr} (c : Word → Word → Bool) (rs1 rs2 : RegIdx) (imm : BitVec 13) (s : State)
    (hw : i.wellFormed = true → evenOffset imm = true) :
    HandlerChange i s (if c (s.readReg rs1) (s.readReg rs2) then s.jumpTo (s.pc + immB imm) else s) := by
  split
  · exact .of_regs rfl (.same rfl) fun h _ he => even_sub4 (even_add he (even_signExtend (by decide) (hw h)))
  · exact .refl i s

theorem jumpAndLink_change {i : Instr} {rd : RegIdx} (hd : destination i = some rd) (target : Word) (s : State) :
    (if aligned4 target = false then .raise .instructionAddressMisaligned s
     else .ok () ((s.writeReg rd (s.pc + 4#32)).jumpTo target) : Result Unit).Within (HandlerChange i) s := by
  split
  · exact .refl i s
  · rename_i h
    have h : aligned4 target = true := by simpa using h
    exact .of_regs rfl (.write (v := s.pc + 4#32) (by simp) hd) fun _ _ _ => even_sub4 (even_of_aligned4 h)

theorem returnFromException_change (s : State) : (returnFromException s).Within (HandlerChange .mret) s := by
  by_cases h : s.priv = .machine
  · cases hp : Priv.ofBits (getMpp (s.csrAt csrMstatus)) with
    | none =>
      have ht : ¬ s.priv.level < csrTier csrMstatus := by rw [h]; decide
      simp [returnFromException, mstatusRef, ht, hp, Result.Within]
    | some p =>
      rw [returnFromException_machine h (Priv.bits_of_ofBits hp)]
      exact ⟨.same (by simp), .same (by simp) (by simp),
        .write (i := csrMstatus) (v := mstatusOnMret (s.csrAt csrMstatus)) (by simp) (by rw [h]; decide) (by decide),
        by simp, fun h => absurd rfl h, fun _ hm _ => even_sub4 (even_of_aligned4 hm)⟩
  · rw [returnFromException_below h]; exact .refl _ s

/-! ## Every instruction -/

/-- Every instruction ends as a handler's result does, and what that result changed is `HandlerChange`. -/
theorem exec_change (i : Instr) (s : State) :
    ∃ r, exec i s = complete s r ∧ r.Within (HandlerChange i) s := by
  cases i with
  | lui rd imm => exact ⟨.ok () (s.writeReg rd _), rfl, writeResult_change rfl _ s⟩
  | auipc rd imm => exact ⟨.ok () (s.writeReg rd _), rfl, writeResult_change rfl _ s⟩
  | jal rd imm => exact ⟨_, rfl, jumpAndLink_change rfl _ s⟩
  | jalr rd rs1 imm => exact ⟨_, rfl, jumpAndLink_change rfl _ s⟩
  | beq rs1 rs2 imm => exact ⟨.ok () _, rfl, branch_change _ rs1 rs2 imm s id⟩
  | bne rs1 rs2 imm => exact ⟨.ok () _, rfl, branch_change _ rs1 rs2 imm s id⟩
  | blt rs1 rs2 imm => exact ⟨.ok () _, rfl, branch_change _ rs1 rs2 imm s id⟩
  | bge rs1 rs2 imm => exact ⟨.ok () _, rfl, branch_change (fun a b => !ltS a b) rs1 rs2 imm s id⟩
  | bltu rs1 rs2 imm => exact ⟨.ok () _, rfl, branch_change _ rs1 rs2 imm s id⟩
  | bgeu rs1 rs2 imm => exact ⟨.ok () _, rfl, branch_change (fun a b => !ltU a b) rs1 rs2 imm s id⟩
  | lb rd rs1 imm => exact ⟨_, rfl, load_change rfl (memReadByte_leaves _ s)⟩
  | lh rd rs1 imm => exact ⟨_, rfl, load_change rfl (memReadHalf_leaves _ s)⟩
  | lw rd rs1 imm => exact ⟨_, rfl, load_change rfl (memReadWord_leaves _ s)⟩
  | lbu rd rs1 imm => exact ⟨_, rfl, load_change rfl (memReadByte_leaves _ s)⟩
  | lhu rd rs1 imm => exact ⟨_, rfl, load_change rfl (memReadHalf_leaves _ s)⟩
  | sb rs1 rs2 imm => exact ⟨_, rfl, store_change rfl (memWriteByte_leaves _ _ s)⟩
  | sh rs1 rs2 imm => exact ⟨_, rfl, store_change rfl (memWriteHalf_leaves _ _ s)⟩
  | sw rs1 rs2 imm => exact ⟨_, rfl, store_change rfl (memWriteWord_leaves _ _ s)⟩
  | addi rd rs1 imm => exact ⟨.ok () (s.writeReg rd _), rfl, writeResult_change rfl _ s⟩
  | slti rd rs1 imm => exact ⟨.ok () (s.writeReg rd _), rfl, writeResult_change rfl _ s⟩
  | sltiu rd rs1 imm => exact ⟨.ok () (s.writeReg rd _), rfl, writeResult_change rfl _ s⟩
  | xori rd rs1 imm => exact ⟨.ok () (s.writeReg rd _), rfl, writeResult_change rfl _ s⟩
  | ori rd rs1 imm => exact ⟨.ok () (s.writeReg rd _), rfl, writeResult_change rfl _ s⟩
  | andi rd rs1 imm => exact ⟨.ok () (s.writeReg rd _), rfl, writeResult_change rfl _ s⟩
  | slli rd rs1 shamt => exact ⟨.ok () (s.writeReg rd _), rfl, writeResult_change rfl _ s⟩
  | srli rd rs1 shamt => exact ⟨.ok () (s.writeReg rd _), rfl, writeResult_change rfl _ s⟩
  | srai rd rs1 shamt => exact ⟨.ok () (s.writeReg rd _), rfl, writeResult_change rfl _ s⟩
  | add rd rs1 rs2 => exact ⟨.ok () (s.writeReg rd _), rfl, writeResult_change rfl _ s⟩
  | sub rd rs1 rs2 => exact ⟨.ok () (s.writeReg rd _), rfl, writeResult_change rfl _ s⟩
  | sll rd rs1 rs2 => exact ⟨.ok () (s.writeReg rd _), rfl, writeResult_change rfl _ s⟩
  | slt rd rs1 rs2 => exact ⟨.ok () (s.writeReg rd _), rfl, writeResult_change rfl _ s⟩
  | sltu rd rs1 rs2 => exact ⟨.ok () (s.writeReg rd _), rfl, writeResult_change rfl _ s⟩
  | xor rd rs1 rs2 => exact ⟨.ok () (s.writeReg rd _), rfl, writeResult_change rfl _ s⟩
  | srl rd rs1 rs2 => exact ⟨.ok () (s.writeReg rd _), rfl, writeResult_change rfl _ s⟩
  | sra rd rs1 rs2 => exact ⟨.ok () (s.writeReg rd _), rfl, writeResult_change rfl _ s⟩
  | or rd rs1 rs2 => exact ⟨.ok () (s.writeReg rd _), rfl, writeResult_change rfl _ s⟩
  | and rd rs1 rs2 => exact ⟨.ok () (s.writeReg rd _), rfl, writeResult_change rfl _ s⟩
  | fence rd rs1 fm pred succ => exact ⟨.ok () s, rfl, .refl _ s⟩
  | ecall => exact ⟨.raise _ s, rfl, .refl _ s⟩
  | ebreak => exact ⟨.raise _ s, rfl, .refl _ s⟩
  | sret => exact ⟨.ok () s, rfl, .refl _ s⟩
  | mret => exact ⟨_, rfl, returnFromException_change s⟩
  | csrrw rd rs1 csr => exact csrSwap_change rfl _ _ s
  | csrrs rd rs1 csr => exact csrModify_change rfl _ _ _ s
  | csrrc rd rs1 csr => exact csrModify_change rfl _ _ _ s
  | csrrwi rd uimm csr => exact csrSwap_change rfl _ _ s
  | csrrsi rd uimm csr => exact csrModify_change rfl _ _ _ s
  | csrrci rd uimm csr => exact csrModify_change rfl _ _ _ s
  | mul rd rs1 rs2 => exact ⟨.ok () (s.writeReg rd _), rfl, writeResult_change rfl _ s⟩
  | mulh rd rs1 rs2 => exact ⟨.ok () (s.writeReg rd _), rfl, writeResult_change rfl _ s⟩
  | mulhsu rd rs1 rs2 => exact ⟨.ok () (s.writeReg rd _), rfl, writeResult_change rfl _ s⟩
  | mulhu rd rs1 rs2 => exact ⟨.ok () (s.writeReg rd _), rfl, writeResult_change rfl _ s⟩
  | div rd rs1 rs2 => exact ⟨.ok () (s.writeReg rd _), rfl, writeResult_change rfl _ s⟩
  | divu rd rs1 rs2 => exact ⟨.ok () (s.writeReg rd _), rfl, writeResult_change rfl _ s⟩
  | rem rd rs1 rs2 => exact ⟨.ok () (s.writeReg rd _), rfl, writeResult_change rfl _ s⟩
  | remu rd rs1 rs2 => exact ⟨.ok () (s.writeReg rd _), rfl, writeResult_change rfl _ s⟩
  | lrW rd rs1 rs2 aq rl => exact ⟨_, rfl, loadReserved_change _ _ _ _ _ s⟩
  | scW rd rs1 rs2 aq rl => exact ⟨_, rfl, storeConditional_change _ _ _ _ _ s⟩
  | amoswapW rd rs1 rs2 aq rl => exact ⟨_, rfl, amo_change rfl rfl _ _ _ s⟩
  | amoaddW rd rs1 rs2 aq rl => exact ⟨_, rfl, amo_change rfl rfl _ _ _ s⟩
  | amoxorW rd rs1 rs2 aq rl => exact ⟨_, rfl, amo_change rfl rfl _ _ _ s⟩
  | amoandW rd rs1 rs2 aq rl => exact ⟨_, rfl, amo_change rfl rfl _ _ _ s⟩
  | amoorW rd rs1 rs2 aq rl => exact ⟨_, rfl, amo_change rfl rfl _ _ _ s⟩
  | amominW rd rs1 rs2 aq rl => exact ⟨_, rfl, amo_change rfl rfl _ _ _ s⟩
  | amomaxW rd rs1 rs2 aq rl => exact ⟨_, rfl, amo_change rfl rfl _ _ _ s⟩
  | amominuW rd rs1 rs2 aq rl => exact ⟨_, rfl, amo_change rfl rfl _ _ _ s⟩
  | amomaxuW rd rs1 rs2 aq rl => exact ⟨_, rfl, amo_change rfl rfl _ _ _ s⟩

/-- A next state is a changed state retired, or trap entry from one. -/
theorem exec_next {i : Instr} {s t : State} (h : exec i s = .next t) :
    ∃ u, HandlerChange i s u ∧ (t = u.retire ∨ ∃ e, t = takeException e s.pc u) := by
  obtain ⟨r, hr, hw⟩ := exec_change i s
  rw [hr] at h
  rcases complete_next h with ⟨u, rfl, rfl⟩ | ⟨e, u, rfl, rfl⟩
  · exact ⟨u, hw, .inl rfl⟩
  · exact ⟨u, hw, .inr ⟨e, rfl⟩⟩

end Sys2Proof.Machine
end

