-- ==== Sys2Proof/Laws/PerInstr.lean ====
section
/-! SUPPORT. Laws stated per instruction. `EncodedFields`: an instruction's word is covered by its own row of the opcode
table (spec/opcode_table.json), whatever its operands. -/

namespace Sys2Proof.Laws.EncodedFields

/-- The encoder's word has the fixed bits of the instruction's row. -/
def Statement (i : Instr) : Prop := ∃ r ∈ opcodeTable, r.mnemonic = i.mnemonic ∧ r.covers (encode i) = true

theorem lui (rd : RegIdx) (imm : BitVec 20) : Statement (.lui rd imm) := by
  refine ⟨row "LUI" 0x0000007f 0x00000037, List.mem_of_getElem? (i := 0) rfl, rfl, ?_⟩
  simp only [OpcodeRow.covers, row, encode]; rw [beq_iff_eq]; exact (and_mask_7f _).trans (by simp)

theorem auipc (rd : RegIdx) (imm : BitVec 20) : Statement (.auipc rd imm) := by
  refine ⟨row "AUIPC" 0x0000007f 0x00000017, List.mem_of_getElem? (i := 1) rfl, rfl, ?_⟩
  simp only [OpcodeRow.covers, row, encode]; rw [beq_iff_eq]; exact (and_mask_7f _).trans (by simp)

theorem jal (rd : RegIdx) (imm : BitVec 21) : Statement (.jal rd imm) := by
  refine ⟨row "JAL" 0x0000007f 0x0000006f, List.mem_of_getElem? (i := 2) rfl, rfl, ?_⟩
  simp only [OpcodeRow.covers, row, encode]; rw [beq_iff_eq]; exact (and_mask_7f _).trans (by simp)

theorem jalr (rd rs1 : RegIdx) (imm : BitVec 12) : Statement (.jalr rd rs1 imm) := by
  refine ⟨row "JALR" 0x0000707f 0x00000067, List.mem_of_getElem? (i := 3) rfl, rfl, ?_⟩
  simp only [OpcodeRow.covers, row, encode]; rw [beq_iff_eq]; exact (and_mask_707f _).trans (by simp)

theorem beq (rs1 rs2 : RegIdx) (imm : BitVec 13) : Statement (.beq rs1 rs2 imm) := by
  refine ⟨row "BEQ" 0x0000707f 0x00000063, List.mem_of_getElem? (i := 4) rfl, rfl, ?_⟩
  simp only [OpcodeRow.covers, row, encode]; rw [beq_iff_eq]; exact (and_mask_707f _).trans (by simp)

theorem bne (rs1 rs2 : RegIdx) (imm : BitVec 13) : Statement (.bne rs1 rs2 imm) := by
  refine ⟨row "BNE" 0x0000707f 0x00001063, List.mem_of_getElem? (i := 5) rfl, rfl, ?_⟩
  simp only [OpcodeRow.covers, row, encode]; rw [beq_iff_eq]; exact (and_mask_707f _).trans (by simp)

theorem blt (rs1 rs2 : RegIdx) (imm : BitVec 13) : Statement (.blt rs1 rs2 imm) := by
  refine ⟨row "BLT" 0x0000707f 0x00004063, List.mem_of_getElem? (i := 6) rfl, rfl, ?_⟩
  simp only [OpcodeRow.covers, row, encode]; rw [beq_iff_eq]; exact (and_mask_707f _).trans (by simp)

theorem bge (rs1 rs2 : RegIdx) (imm : BitVec 13) : Statement (.bge rs1 rs2 imm) := by
  refine ⟨row "BGE" 0x0000707f 0x00005063, List.mem_of_getElem? (i := 7) rfl, rfl, ?_⟩
  simp only [OpcodeRow.covers, row, encode]; rw [beq_iff_eq]; exact (and_mask_707f _).trans (by simp)

theorem bltu (rs1 rs2 : RegIdx) (imm : BitVec 13) : Statement (.bltu rs1 rs2 imm) := by
  refine ⟨row "BLTU" 0x0000707f 0x00006063, List.mem_of_getElem? (i := 8) rfl, rfl, ?_⟩
  simp only [OpcodeRow.covers, row, encode]; rw [beq_iff_eq]; exact (and_mask_707f _).trans (by simp)

theorem bgeu (rs1 rs2 : RegIdx) (imm : BitVec 13) : Statement (.bgeu rs1 rs2 imm) := by
  refine ⟨row "BGEU" 0x0000707f 0x00007063, List.mem_of_getElem? (i := 9) rfl, rfl, ?_⟩
  simp only [OpcodeRow.covers, row, encode]; rw [beq_iff_eq]; exact (and_mask_707f _).trans (by simp)

theorem lb (rd rs1 : RegIdx) (imm : BitVec 12) : Statement (.lb rd rs1 imm) := by
  refine ⟨row "LB" 0x0000707f 0x00000003, List.mem_of_getElem? (i := 10) rfl, rfl, ?_⟩
  simp only [OpcodeRow.covers, row, encode]; rw [beq_iff_eq]; exact (and_mask_707f _).trans (by simp)

theorem lh (rd rs1 : RegIdx) (imm : BitVec 12) : Statement (.lh rd rs1 imm) := by
  refine ⟨row "LH" 0x0000707f 0x00001003, List.mem_of_getElem? (i := 11) rfl, rfl, ?_⟩
  simp only [OpcodeRow.covers, row, encode]; rw [beq_iff_eq]; exact (and_mask_707f _).trans (by simp)

theorem lw (rd rs1 : RegIdx) (imm : BitVec 12) : Statement (.lw rd rs1 imm) := by
  refine ⟨row "LW" 0x0000707f 0x00002003, List.mem_of_getElem? (i := 12) rfl, rfl, ?_⟩
  simp only [OpcodeRow.covers, row, encode]; rw [beq_iff_eq]; exact (and_mask_707f _).trans (by simp)

theorem lbu (rd rs1 : RegIdx) (imm : BitVec 12) : Statement (.lbu rd rs1 imm) := by
  refine ⟨row "LBU" 0x0000707f 0x00004003, List.mem_of_getElem? (i := 13) rfl, rfl, ?_⟩
  simp only [OpcodeRow.covers, row, encode]; rw [beq_iff_eq]; exact (and_mask_707f _).trans (by simp)

theorem lhu (rd rs1 : RegIdx) (imm : BitVec 12) : Statement (.lhu rd rs1 imm) := by
  refine ⟨row "LHU" 0x0000707f 0x00005003, List.mem_of_getElem? (i := 14) rfl, rfl, ?_⟩
  simp only [OpcodeRow.covers, row, encode]; rw [beq_iff_eq]; exact (and_mask_707f _).trans (by simp)

theorem sb (rs1 rs2 : RegIdx) (imm : BitVec 12) : Statement (.sb rs1 rs2 imm) := by
  refine ⟨row "SB" 0x0000707f 0x00000023, List.mem_of_getElem? (i := 15) rfl, rfl, ?_⟩
  simp only [OpcodeRow.covers, row, encode]; rw [beq_iff_eq]; exact (and_mask_707f _).trans (by simp)

theorem sh (rs1 rs2 : RegIdx) (imm : BitVec 12) : Statement (.sh rs1 rs2 imm) := by
  refine ⟨row "SH" 0x0000707f 0x00001023, List.mem_of_getElem? (i := 16) rfl, rfl, ?_⟩
  simp only [OpcodeRow.covers, row, encode]; rw [beq_iff_eq]; exact (and_mask_707f _).trans (by simp)

theorem sw (rs1 rs2 : RegIdx) (imm : BitVec 12) : Statement (.sw rs1 rs2 imm) := by
  refine ⟨row "SW" 0x0000707f 0x00002023, List.mem_of_getElem? (i := 17) rfl, rfl, ?_⟩
  simp only [OpcodeRow.covers, row, encode]; rw [beq_iff_eq]; exact (and_mask_707f _).trans (by simp)

theorem addi (rd rs1 : RegIdx) (imm : BitVec 12) : Statement (.addi rd rs1 imm) := by
  refine ⟨row "ADDI" 0x0000707f 0x00000013, List.mem_of_getElem? (i := 18) rfl, rfl, ?_⟩
  simp only [OpcodeRow.covers, row, encode]; rw [beq_iff_eq]; exact (and_mask_707f _).trans (by simp)

theorem slti (rd rs1 : RegIdx) (imm : BitVec 12) : Statement (.slti rd rs1 imm) := by
  refine ⟨row "SLTI" 0x0000707f 0x00002013, List.mem_of_getElem? (i := 19) rfl, rfl, ?_⟩
  simp only [OpcodeRow.covers, row, encode]; rw [beq_iff_eq]; exact (and_mask_707f _).trans (by simp)

theorem sltiu (rd rs1 : RegIdx) (imm : BitVec 12) : Statement (.sltiu rd rs1 imm) := by
  refine ⟨row "SLTIU" 0x0000707f 0x00003013, List.mem_of_getElem? (i := 20) rfl, rfl, ?_⟩
  simp only [OpcodeRow.covers, row, encode]; rw [beq_iff_eq]; exact (and_mask_707f _).trans (by simp)

theorem xori (rd rs1 : RegIdx) (imm : BitVec 12) : Statement (.xori rd rs1 imm) := by
  refine ⟨row "XORI" 0x0000707f 0x00004013, List.mem_of_getElem? (i := 21) rfl, rfl, ?_⟩
  simp only [OpcodeRow.covers, row, encode]; rw [beq_iff_eq]; exact (and_mask_707f _).trans (by simp)

theorem ori (rd rs1 : RegIdx) (imm : BitVec 12) : Statement (.ori rd rs1 imm) := by
  refine ⟨row "ORI" 0x0000707f 0x00006013, List.mem_of_getElem? (i := 22) rfl, rfl, ?_⟩
  simp only [OpcodeRow.covers, row, encode]; rw [beq_iff_eq]; exact (and_mask_707f _).trans (by simp)

theorem andi (rd rs1 : RegIdx) (imm : BitVec 12) : Statement (.andi rd rs1 imm) := by
  refine ⟨row "ANDI" 0x0000707f 0x00007013, List.mem_of_getElem? (i := 23) rfl, rfl, ?_⟩
  simp only [OpcodeRow.covers, row, encode]; rw [beq_iff_eq]; exact (and_mask_707f _).trans (by simp)

theorem slli (rd rs1 : RegIdx) (shamt : BitVec 5) : Statement (.slli rd rs1 shamt) := by
  refine ⟨row "SLLI" 0xfe00707f 0x00001013, List.mem_of_getElem? (i := 24) rfl, rfl, ?_⟩
  simp only [OpcodeRow.covers, row, encode]; rw [beq_iff_eq]; exact (and_mask_fe00707f _).trans (by simp)

theorem srli (rd rs1 : RegIdx) (shamt : BitVec 5) : Statement (.srli rd rs1 shamt) := by
  refine ⟨row "SRLI" 0xfe00707f 0x00005013, List.mem_of_getElem? (i := 25) rfl, rfl, ?_⟩
  simp only [OpcodeRow.covers, row, encode]; rw [beq_iff_eq]; exact (and_mask_fe00707f _).trans (by simp)

theorem srai (rd rs1 : RegIdx) (shamt : BitVec 5) : Statement (.srai rd rs1 shamt) := by
  refine ⟨row "SRAI" 0xfe00707f 0x40005013, List.mem_of_getElem? (i := 26) rfl, rfl, ?_⟩
  simp only [OpcodeRow.covers, row, encode]; rw [beq_iff_eq]; exact (and_mask_fe00707f _).trans (by simp)

theorem add (rd rs1 rs2 : RegIdx) : Statement (.add rd rs1 rs2) := by
  refine ⟨row "ADD" 0xfe00707f 0x00000033, List.mem_of_getElem? (i := 27) rfl, rfl, ?_⟩
  simp only [OpcodeRow.covers, row, encode]; rw [beq_iff_eq]; exact (and_mask_fe00707f _).trans (by simp)

theorem sub (rd rs1 rs2 : RegIdx) : Statement (.sub rd rs1 rs2) := by
  refine ⟨row "SUB" 0xfe00707f 0x40000033, List.mem_of_getElem? (i := 28) rfl, rfl, ?_⟩
  simp only [OpcodeRow.covers, row, encode]; rw [beq_iff_eq]; exact (and_mask_fe00707f _).trans (by simp)

theorem sll (rd rs1 rs2 : RegIdx) : Statement (.sll rd rs1 rs2) := by
  refine ⟨row "SLL" 0xfe00707f 0x00001033, List.mem_of_getElem? (i := 29) rfl, rfl, ?_⟩
  simp only [OpcodeRow.covers, row, encode]; rw [beq_iff_eq]; exact (and_mask_fe00707f _).trans (by simp)

theorem slt (rd rs1 rs2 : RegIdx) : Statement (.slt rd rs1 rs2) := by
  refine ⟨row "SLT" 0xfe00707f 0x00002033, List.mem_of_getElem? (i := 30) rfl, rfl, ?_⟩
  simp only [OpcodeRow.covers, row, encode]; rw [beq_iff_eq]; exact (and_mask_fe00707f _).trans (by simp)

theorem sltu (rd rs1 rs2 : RegIdx) : Statement (.sltu rd rs1 rs2) := by
  refine ⟨row "SLTU" 0xfe00707f 0x00003033, List.mem_of_getElem? (i := 31) rfl, rfl, ?_⟩
  simp only [OpcodeRow.covers, row, encode]; rw [beq_iff_eq]; exact (and_mask_fe00707f _).trans (by simp)

theorem xor (rd rs1 rs2 : RegIdx) : Statement (.xor rd rs1 rs2) := by
  refine ⟨row "XOR" 0xfe00707f 0x00004033, List.mem_of_getElem? (i := 32) rfl, rfl, ?_⟩
  simp only [OpcodeRow.covers, row, encode]; rw [beq_iff_eq]; exact (and_mask_fe00707f _).trans (by simp)

theorem srl (rd rs1 rs2 : RegIdx) : Statement (.srl rd rs1 rs2) := by
  refine ⟨row "SRL" 0xfe00707f 0x00005033, List.mem_of_getElem? (i := 33) rfl, rfl, ?_⟩
  simp only [OpcodeRow.covers, row, encode]; rw [beq_iff_eq]; exact (and_mask_fe00707f _).trans (by simp)

theorem sra (rd rs1 rs2 : RegIdx) : Statement (.sra rd rs1 rs2) := by
  refine ⟨row "SRA" 0xfe00707f 0x40005033, List.mem_of_getElem? (i := 34) rfl, rfl, ?_⟩
  simp only [OpcodeRow.covers, row, encode]; rw [beq_iff_eq]; exact (and_mask_fe00707f _).trans (by simp)

theorem or (rd rs1 rs2 : RegIdx) : Statement (.or rd rs1 rs2) := by
  refine ⟨row "OR" 0xfe00707f 0x00006033, List.mem_of_getElem? (i := 35) rfl, rfl, ?_⟩
  simp only [OpcodeRow.covers, row, encode]; rw [beq_iff_eq]; exact (and_mask_fe00707f _).trans (by simp)

theorem and (rd rs1 rs2 : RegIdx) : Statement (.and rd rs1 rs2) := by
  refine ⟨row "AND" 0xfe00707f 0x00007033, List.mem_of_getElem? (i := 36) rfl, rfl, ?_⟩
  simp only [OpcodeRow.covers, row, encode]; rw [beq_iff_eq]; exact (and_mask_fe00707f _).trans (by simp)

theorem fence (rd rs1 : RegIdx) (fm pred succ : BitVec 4) : Statement (.fence rd rs1 fm pred succ) := by
  refine ⟨row "FENCE" 0x0000707f 0x0000000f, List.mem_of_getElem? (i := 37) rfl, rfl, ?_⟩
  simp only [OpcodeRow.covers, row, encode]; rw [beq_iff_eq]; exact (and_mask_707f _).trans (by simp)

theorem ecall : Statement .ecall := by
  refine ⟨row "ECALL" 0xffffffff 0x00000073, List.mem_of_getElem? (i := 38) rfl, rfl, ?_⟩
  rfl

theorem ebreak : Statement .ebreak := by
  refine ⟨row "EBREAK" 0xffffffff 0x00100073, List.mem_of_getElem? (i := 39) rfl, rfl, ?_⟩
  rfl

theorem sret : Statement .sret := by
  refine ⟨row "SRET" 0xffffffff 0x10200073, List.mem_of_getElem? (i := 40) rfl, rfl, ?_⟩
  rfl

theorem mret : Statement .mret := by
  refine ⟨row "MRET" 0xffffffff 0x30200073, List.mem_of_getElem? (i := 41) rfl, rfl, ?_⟩
  rfl

theorem csrrw (rd rs1 : RegIdx) (csr : CsrIdx) : Statement (.csrrw rd rs1 csr) := by
  refine ⟨row "CSRRW" 0x0000707f 0x00001073, List.mem_of_getElem? (i := 42) rfl, rfl, ?_⟩
  simp only [OpcodeRow.covers, row, encode]; rw [beq_iff_eq]; exact (and_mask_707f _).trans (by simp)

theorem csrrs (rd rs1 : RegIdx) (csr : CsrIdx) : Statement (.csrrs rd rs1 csr) := by
  refine ⟨row "CSRRS" 0x0000707f 0x00002073, List.mem_of_getElem? (i := 43) rfl, rfl, ?_⟩
  simp only [OpcodeRow.covers, row, encode]; rw [beq_iff_eq]; exact (and_mask_707f _).trans (by simp)

theorem csrrc (rd rs1 : RegIdx) (csr : CsrIdx) : Statement (.csrrc rd rs1 csr) := by
  refine ⟨row "CSRRC" 0x0000707f 0x00003073, List.mem_of_getElem? (i := 44) rfl, rfl, ?_⟩
  simp only [OpcodeRow.covers, row, encode]; rw [beq_iff_eq]; exact (and_mask_707f _).trans (by simp)

theorem csrrwi (rd : RegIdx) (uimm : BitVec 5) (csr : CsrIdx) : Statement (.csrrwi rd uimm csr) := by
  refine ⟨row "CSRRWI" 0x0000707f 0x00005073, List.mem_of_getElem? (i := 45) rfl, rfl, ?_⟩
  simp only [OpcodeRow.covers, row, encode]; rw [beq_iff_eq]; exact (and_mask_707f _).trans (by simp)

theorem csrrsi (rd : RegIdx) (uimm : BitVec 5) (csr : CsrIdx) : Statement (.csrrsi rd uimm csr) := by
  refine ⟨row "CSRRSI" 0x0000707f 0x00006073, List.mem_of_getElem? (i := 46) rfl, rfl, ?_⟩
  simp only [OpcodeRow.covers, row, encode]; rw [beq_iff_eq]; exact (and_mask_707f _).trans (by simp)

theorem csrrci (rd : RegIdx) (uimm : BitVec 5) (csr : CsrIdx) : Statement (.csrrci rd uimm csr) := by
  refine ⟨row "CSRRCI" 0x0000707f 0x00007073, List.mem_of_getElem? (i := 47) rfl, rfl, ?_⟩
  simp only [OpcodeRow.covers, row, encode]; rw [beq_iff_eq]; exact (and_mask_707f _).trans (by simp)

theorem mul (rd rs1 rs2 : RegIdx) : Statement (.mul rd rs1 rs2) := by
  refine ⟨row "MUL" 0xfe00707f 0x02000033, List.mem_of_getElem? (i := 48) rfl, rfl, ?_⟩
  simp only [OpcodeRow.covers, row, encode]; rw [beq_iff_eq]; exact (and_mask_fe00707f _).trans (by simp)

theorem mulh (rd rs1 rs2 : RegIdx) : Statement (.mulh rd rs1 rs2) := by
  refine ⟨row "MULH" 0xfe00707f 0x02001033, List.mem_of_getElem? (i := 49) rfl, rfl, ?_⟩
  simp only [OpcodeRow.covers, row, encode]; rw [beq_iff_eq]; exact (and_mask_fe00707f _).trans (by simp)

theorem mulhsu (rd rs1 rs2 : RegIdx) : Statement (.mulhsu rd rs1 rs2) := by
  refine ⟨row "MULHSU" 0xfe00707f 0x02002033, List.mem_of_getElem? (i := 50) rfl, rfl, ?_⟩
  simp only [OpcodeRow.covers, row, encode]; rw [beq_iff_eq]; exact (and_mask_fe00707f _).trans (by simp)

theorem mulhu (rd rs1 rs2 : RegIdx) : Statement (.mulhu rd rs1 rs2) := by
  refine ⟨row "MULHU" 0xfe00707f 0x02003033, List.mem_of_getElem? (i := 51) rfl, rfl, ?_⟩
  simp only [OpcodeRow.covers, row, encode]; rw [beq_iff_eq]; exact (and_mask_fe00707f _).trans (by simp)

theorem div (rd rs1 rs2 : RegIdx) : Statement (.div rd rs1 rs2) := by
  refine ⟨row "DIV" 0xfe00707f 0x02004033, List.mem_of_getElem? (i := 52) rfl, rfl, ?_⟩
  simp only [OpcodeRow.covers, row, encode]; rw [beq_iff_eq]; exact (and_mask_fe00707f _).trans (by simp)

theorem divu (rd rs1 rs2 : RegIdx) : Statement (.divu rd rs1 rs2) := by
  refine ⟨row "DIVU" 0xfe00707f 0x02005033, List.mem_of_getElem? (i := 53) rfl, rfl, ?_⟩
  simp only [OpcodeRow.covers, row, encode]; rw [beq_iff_eq]; exact (and_mask_fe00707f _).trans (by simp)

theorem rem (rd rs1 rs2 : RegIdx) : Statement (.rem rd rs1 rs2) := by
  refine ⟨row "REM" 0xfe00707f 0x02006033, List.mem_of_getElem? (i := 54) rfl, rfl, ?_⟩
  simp only [OpcodeRow.covers, row, encode]; rw [beq_iff_eq]; exact (and_mask_fe00707f _).trans (by simp)

theorem remu (rd rs1 rs2 : RegIdx) : Statement (.remu rd rs1 rs2) := by
  refine ⟨row "REMU" 0xfe00707f 0x02007033, List.mem_of_getElem? (i := 55) rfl, rfl, ?_⟩
  simp only [OpcodeRow.covers, row, encode]; rw [beq_iff_eq]; exact (and_mask_fe00707f _).trans (by simp)

theorem lrW (rd rs1 rs2 : RegIdx) (aq rl : Bool) : Statement (.lrW rd rs1 rs2 aq rl) := by
  refine ⟨row "LR.W" 0xf800707f 0x1000202f, List.mem_of_getElem? (i := 56) rfl, rfl, ?_⟩
  simp only [OpcodeRow.covers, row, encode]; rw [beq_iff_eq]; exact (and_mask_f800707f _).trans (by simp)

theorem scW (rd rs1 rs2 : RegIdx) (aq rl : Bool) : Statement (.scW rd rs1 rs2 aq rl) := by
  refine ⟨row "SC.W" 0xf800707f 0x1800202f, List.mem_of_getElem? (i := 57) rfl, rfl, ?_⟩
  simp only [OpcodeRow.covers, row, encode]; rw [beq_iff_eq]; exact (and_mask_f800707f _).trans (by simp)

theorem amoswapW (rd rs1 rs2 : RegIdx) (aq rl : Bool) : Statement (.amoswapW rd rs1 rs2 aq rl) := by
  refine ⟨row "AMOSWAP.W" 0xf800707f 0x0800202f, List.mem_of_getElem? (i := 58) rfl, rfl, ?_⟩
  simp only [OpcodeRow.covers, row, encode]; rw [beq_iff_eq]; exact (and_mask_f800707f _).trans (by simp)

theorem amoaddW (rd rs1 rs2 : RegIdx) (aq rl : Bool) : Statement (.amoaddW rd rs1 rs2 aq rl) := by
  refine ⟨row "AMOADD.W" 0xf800707f 0x0000202f, List.mem_of_getElem? (i := 59) rfl, rfl, ?_⟩
  simp only [OpcodeRow.covers, row, encode]; rw [beq_iff_eq]; exact (and_mask_f800707f _).trans (by simp)

theorem amoxorW (rd rs1 rs2 : RegIdx) (aq rl : Bool) : Statement (.amoxorW rd rs1 rs2 aq rl) := by
  refine ⟨row "AMOXOR.W" 0xf800707f 0x2000202f, List.mem_of_getElem? (i := 60) rfl, rfl, ?_⟩
  simp only [OpcodeRow.covers, row, encode]; rw [beq_iff_eq]; exact (and_mask_f800707f _).trans (by simp)

theorem amoandW (rd rs1 rs2 : RegIdx) (aq rl : Bool) : Statement (.amoandW rd rs1 rs2 aq rl) := by
  refine ⟨row "AMOAND.W" 0xf800707f 0x6000202f, List.mem_of_getElem? (i := 61) rfl, rfl, ?_⟩
  simp only [OpcodeRow.covers, row, encode]; rw [beq_iff_eq]; exact (and_mask_f800707f _).trans (by simp)

theorem amoorW (rd rs1 rs2 : RegIdx) (aq rl : Bool) : Statement (.amoorW rd rs1 rs2 aq rl) := by
  refine ⟨row "AMOOR.W" 0xf800707f 0x4000202f, List.mem_of_getElem? (i := 62) rfl, rfl, ?_⟩
  simp only [OpcodeRow.covers, row, encode]; rw [beq_iff_eq]; exact (and_mask_f800707f _).trans (by simp)

theorem amominW (rd rs1 rs2 : RegIdx) (aq rl : Bool) : Statement (.amominW rd rs1 rs2 aq rl) := by
  refine ⟨row "AMOMIN.W" 0xf800707f 0x8000202f, List.mem_of_getElem? (i := 63) rfl, rfl, ?_⟩
  simp only [OpcodeRow.covers, row, encode]; rw [beq_iff_eq]; exact (and_mask_f800707f _).trans (by simp)

theorem amomaxW (rd rs1 rs2 : RegIdx) (aq rl : Bool) : Statement (.amomaxW rd rs1 rs2 aq rl) := by
  refine ⟨row "AMOMAX.W" 0xf800707f 0xa000202f, List.mem_of_getElem? (i := 64) rfl, rfl, ?_⟩
  simp only [OpcodeRow.covers, row, encode]; rw [beq_iff_eq]; exact (and_mask_f800707f _).trans (by simp)

theorem amominuW (rd rs1 rs2 : RegIdx) (aq rl : Bool) : Statement (.amominuW rd rs1 rs2 aq rl) := by
  refine ⟨row "AMOMINU.W" 0xf800707f 0xc000202f, List.mem_of_getElem? (i := 65) rfl, rfl, ?_⟩
  simp only [OpcodeRow.covers, row, encode]; rw [beq_iff_eq]; exact (and_mask_f800707f _).trans (by simp)

theorem amomaxuW (rd rs1 rs2 : RegIdx) (aq rl : Bool) : Statement (.amomaxuW rd rs1 rs2 aq rl) := by
  refine ⟨row "AMOMAXU.W" 0xf800707f 0xe000202f, List.mem_of_getElem? (i := 66) rfl, rfl, ?_⟩
  simp only [OpcodeRow.covers, row, encode]; rw [beq_iff_eq]; exact (and_mask_f800707f _).trans (by simp)

end Sys2Proof.Laws.EncodedFields
end

