-- ==== Sys2Proof/Laws/Step.lean ====
section
/-! SUPPORT. The step by what its fetch answers (R8 to R10), and the word placed for it. -/

namespace Sys2Proof.Machine

theorem step_of_decoded {s s1 : State} {w : Word} {i : Instr} (h : fetch s.pc s = .ok w s1)
    (hd : decodeWord w = .ok i) : step s = exec i s1 := by unfold step; rw [h]; simp only [hd]

theorem step_of_undecoded {s s1 : State} {w : Word} {why : Reject} (h : fetch s.pc s = .ok w s1)
    (hd : decodeWord w = .error why) : step s = .next (takeException (.illegalInstruction (some w)) s.pc s1) := by
  unfold step; rw [h]; simp only [hd]

theorem step_of_failed_fetch {s s1 : State} {e : Exception} (h : fetch s.pc s = .raise e s1) :
    step s = .next (takeException e s.pc s1) := by unfold step; rw [h]

/-- All a step can be: the trap of a failed fetch, the trap of a word that does not decode, or an instruction run in a
state that differs from `s` at most in what the device has seen. -/
theorem step_cases (s : State) :
    (∃ e u, ReadChange s u ∧ step s = .next (takeException e s.pc u)) ∨
    ∃ w i u, fetch s.pc s = .ok w u ∧ ReadChange s u ∧ decodeWord w = .ok i ∧ step s = exec i u := by
  have hl := fetch_leaves s.pc s
  cases hf : fetch s.pc s with
  | ok w u =>
    rw [hf] at hl
    cases hd : decodeWord w with
    | ok i => exact .inr ⟨w, i, u, rfl, hl, hd, step_of_decoded hf hd⟩
    | error why => exact .inl ⟨_, u, hl, step_of_undecoded hf hd⟩
  | raise e u => rw [hf] at hl; exact .inl ⟨e, u, hl, step_of_failed_fetch hf⟩
  | refuse r => rw [hf] at hl; exact hl.elim

/-- A word placed for the fetch stands where it can be fetched. -/
theorem fetchPlace_fetchable (s : State) : aligned4 (fetchPlace s) = true ∧ backed (fetchPlace s) := by
  unfold fetchPlace
  split
  · rename_i h
    unfold fetchable at h; rw [Bool.and_eq_true] at h
    exact ⟨h.1, by simpa [backed] using h.2⟩
  · exact ⟨by decide, .inr (by decide)⟩

end Sys2Proof.Machine
end

