-- ==== Sys2Proof/Tests/Slice0.lean ====
section
/-! SUPPORT. The model's own tests. Each expected value comes from the spec: the words are written out field by field
from spec/30_encoding.md, the results are the examples of the rules and the vectors of spec/95_test_vectors.md, by hand
from the rules where neither has one. Every test is one step, or none. After them, for each statement that has
hypotheses, concrete states and operands that meet them, clause by clause and at the ends of their ranges. -/

namespace Sys2Proof.Tests

open Sys2Proof.Machine

/-! ## Helpers -/

/-- The reset state with a word placed for its first fetch, and x6, x7 and x5 set. -/
def start (w : Nat) (x6 x7 : Word) : State :=
  (((State.reset.withFetchWord 32 w).writeReg 6#5 x6).writeReg 7#5 x7).writeReg 5#5 0x77#32

/-- What a state reads as after a step, if the step has a next state. -/
def after {α : Type} (s : State) (f : State → α) : Option α :=
  match step s with
  | .next t => some (f t)
  | .fault _ => none
  | .refused _ => none

/-- x5, and the next pc, after a step. -/
def x5 (s : State) : Option Word := after s fun t => t.readReg 5#5
def nextPc (s : State) : Option Word := after s fun t => t.pc

/-- The cause, and x5, after a step that traps from reset: the pc goes to `mtvec`, 0. -/
def trapCause (s : State) : Option (Word × Word × Word) :=
  after s fun t => (t.pc, t.csrAt csrMcause, t.readReg 5#5)

/-- The word the vectors keep at 0x80001000 (tables LS and A). -/
def wordA : Word := 0x80001000#32
def withA (w : Word) (s : State) : State := s.load wordA (bytesOfWord w)
def wordAtA (s : State) : Option Word := after s fun t => t.mem.wordAt wordA

/-! ## WellFormed: an odd offset is refused, for each shape that checks one (R131, R133) -/

theorem test_illformed_beq : (Instr.beq 6 7 0x0009#13).wellFormed = false := by decide
theorem test_illformed_bne : (Instr.bne 6 7 0x0009#13).wellFormed = false := by decide
theorem test_illformed_blt : (Instr.blt 6 7 0x0009#13).wellFormed = false := by decide
theorem test_illformed_bge : (Instr.bge 6 7 0x0009#13).wellFormed = false := by decide
theorem test_illformed_bltu : (Instr.bltu 6 7 0x0009#13).wellFormed = false := by decide
theorem test_illformed_bgeu : (Instr.bgeu 6 7 0x0009#13).wellFormed = false := by decide
theorem test_illformed_jal : (Instr.jal 1 0x000801#21).wellFormed = false := by decide
theorem test_wellformed_ends : (Instr.beq 31 31 0x1FFE#13).wellFormed = true ∧ (Instr.jal 31 0x1FFFFE#21).wellFormed = true := by
  decide

/-! ## Decoding: every constructor's word, field by field (30_encoding.md R122 to R145) -/

theorem test_decode_upper :
    decodeWord 0b00010010001101000101_00101_0110111#32 = .ok (.lui 5 0x12345) ∧
    decodeWord 0b11111111111111111111_00101_0010111#32 = .ok (.auipc 5 0xFFFFF) := by
  decide

theorem test_decode_jumps :
    decodeWord 0b0_0000000000_1_00000000_00101_1101111#32 = .ok (.jal 5 0x000800) ∧
    decodeWord 0b1_0000000000_0_00000000_00101_1101111#32 = .ok (.jal 5 0x100000) ∧
    decodeWord 0b0_1111111111_0_11111111_00101_1101111#32 = .ok (.jal 5 0x0FF7FE) ∧
    decodeWord 0b000000000100_00110_000_00101_1100111#32 = .ok (.jalr 5 6 4) := by
  decide

theorem test_decode_branches :
    decodeWord 0b0_000000_00111_00110_000_0100_0_1100011#32 = .ok (.beq 6 7 8) ∧
    decodeWord 0b1_111111_00111_00110_001_1110_1_1100011#32 = .ok (.bne 6 7 0x1FFC) ∧
    decodeWord 0b0_000000_00111_00110_100_1000_0_1100011#32 = .ok (.blt 6 7 16) ∧
    decodeWord 0b0_111111_00111_00110_101_1111_0_1100011#32 = .ok (.bge 6 7 0x07FE) ∧
    decodeWord 0b0_000000_00111_00110_110_0000_1_1100011#32 = .ok (.bltu 6 7 0x0800) ∧
    decodeWord 0b1_000000_00111_00110_111_0000_0_1100011#32 = .ok (.bgeu 6 7 0x1000) := by
  decide

theorem test_decode_loads :
    decodeWord 0b111111111100_00110_000_00101_0000011#32 = .ok (.lb 5 6 0xFFC) ∧
    decodeWord 0b000000000010_00110_001_00101_0000011#32 = .ok (.lh 5 6 2) ∧
    decodeWord 0b000000001000_00110_010_00101_0000011#32 = .ok (.lw 5 6 8) ∧
    decodeWord 0b000000000000_00110_100_00101_0000011#32 = .ok (.lbu 5 6 0) ∧
    decodeWord 0b011111111111_00110_101_00101_0000011#32 = .ok (.lhu 5 6 0x7FF) := by
  decide

theorem test_decode_stores :
    decodeWord 0b0000000_00111_00110_000_00001_0100011#32 = .ok (.sb 6 7 1) ∧
    decodeWord 0b1111111_00111_00110_001_11110_0100011#32 = .ok (.sh 6 7 0xFFE) ∧
    decodeWord 0b0111111_00111_00110_010_00000_0100011#32 = .ok (.sw 6 7 0x7E0) := by
  decide

theorem test_decode_register_immediate :
    decodeWord 0b111111111111_00110_000_00101_0010011#32 = .ok (.addi 5 6 0xFFF) ∧
    decodeWord 0b111111111111_00110_010_00101_0010011#32 = .ok (.slti 5 6 0xFFF) ∧
    decodeWord 0b000000000101_00110_011_00101_0010011#32 = .ok (.sltiu 5 6 5) ∧
    decodeWord 0b111111111111_00110_100_00101_0010011#32 = .ok (.xori 5 6 0xFFF) ∧
    decodeWord 0b011100000000_00110_110_00101_0010011#32 = .ok (.ori 5 6 0x700) ∧
    decodeWord 0b000011111111_00110_111_00101_0010011#32 = .ok (.andi 5 6 0x0FF) := by
  decide

theorem test_decode_shifts :
    decodeWord 0b0000000_11111_00110_001_00101_0010011#32 = .ok (.slli 5 6 31) ∧
    decodeWord 0b0000000_00100_00110_101_00101_0010011#32 = .ok (.srli 5 6 4) ∧
    decodeWord 0b0100000_00100_00110_101_00101_0010011#32 = .ok (.srai 5 6 4) := by
  decide

theorem test_decode_register_register :
    decodeWord 0b0000000_00111_00110_000_00101_0110011#32 = .ok (.add 5 6 7) ∧
    decodeWord 0b0100000_00111_00110_000_00101_0110011#32 = .ok (.sub 5 6 7) ∧
    decodeWord 0b0000000_00111_00110_001_00101_0110011#32 = .ok (.sll 5 6 7) ∧
    decodeWord 0b0000000_00111_00110_010_00101_0110011#32 = .ok (.slt 5 6 7) ∧
    decodeWord 0b0000000_00111_00110_011_00101_0110011#32 = .ok (.sltu 5 6 7) ∧
    decodeWord 0b0000000_00111_00110_100_00101_0110011#32 = .ok (.xor 5 6 7) ∧
    decodeWord 0b0000000_00111_00110_101_00101_0110011#32 = .ok (.srl 5 6 7) ∧
    decodeWord 0b0100000_00111_00110_101_00101_0110011#32 = .ok (.sra 5 6 7) ∧
    decodeWord 0b0000000_00111_00110_110_00101_0110011#32 = .ok (.or 5 6 7) ∧
    decodeWord 0b0000000_00111_00110_111_00101_0110011#32 = .ok (.and 5 6 7) := by
  decide

theorem test_decode_multiply_divide :
    decodeWord 0b0000001_00111_00110_000_00101_0110011#32 = .ok (.mul 5 6 7) ∧
    decodeWord 0b0000001_00111_00110_001_00101_0110011#32 = .ok (.mulh 5 6 7) ∧
    decodeWord 0b0000001_00111_00110_010_00101_0110011#32 = .ok (.mulhsu 5 6 7) ∧
    decodeWord 0b0000001_00111_00110_011_00101_0110011#32 = .ok (.mulhu 5 6 7) ∧
    decodeWord 0b0000001_00111_00110_100_00101_0110011#32 = .ok (.div 5 6 7) ∧
    decodeWord 0b0000001_00111_00110_101_00101_0110011#32 = .ok (.divu 5 6 7) ∧
    decodeWord 0b0000001_00111_00110_110_00101_0110011#32 = .ok (.rem 5 6 7) ∧
    decodeWord 0b0000001_00111_00110_111_00101_0110011#32 = .ok (.remu 5 6 7) := by
  decide

theorem test_decode_fence :
    decodeWord 0b0000_1111_1111_00000_000_00000_0001111#32 = .ok (.fence 0 0 0 15 15) ∧
    decodeWord 0b1000_0011_0011_00110_000_00101_0001111#32 = .ok (.fence 5 6 8 3 3) := by
  decide

theorem test_decode_environment :
    decodeWord 0b000000000000_00000_000_00000_1110011#32 = .ok .ecall ∧
    decodeWord 0b000000000001_00000_000_00000_1110011#32 = .ok .ebreak ∧
    decodeWord 0b000100000010_00000_000_00000_1110011#32 = .ok .sret ∧
    decodeWord 0b001100000010_00000_000_00000_1110011#32 = .ok .mret := by
  decide

theorem test_decode_csr :
    decodeWord 0b001101000000_00110_001_00101_1110011#32 = .ok (.csrrw 5 6 0x340) ∧
    decodeWord 0b110000000000_00110_010_00101_1110011#32 = .ok (.csrrs 5 6 0xC00) ∧
    decodeWord 0b001100000000_00110_011_00101_1110011#32 = .ok (.csrrc 5 6 0x300) ∧
    decodeWord 0b001100000101_00110_101_00101_1110011#32 = .ok (.csrrwi 5 6 0x305) ∧
    decodeWord 0b111111111111_00110_110_00101_1110011#32 = .ok (.csrrsi 5 6 0xFFF) ∧
    decodeWord 0b000000000001_00110_111_00101_1110011#32 = .ok (.csrrci 5 6 0x001) := by
  decide

theorem test_decode_atomics :
    decodeWord 0b00010_0_0_00111_00110_010_00101_0101111#32 = .ok (.lrW 5 6 7 false false) ∧
    decodeWord 0b00011_1_0_00111_00110_010_00101_0101111#32 = .ok (.scW 5 6 7 true false) ∧
    decodeWord 0b00001_0_1_00111_00110_010_00101_0101111#32 = .ok (.amoswapW 5 6 7 false true) ∧
    decodeWord 0b00000_1_1_00111_00110_010_00101_0101111#32 = .ok (.amoaddW 5 6 7 true true) ∧
    decodeWord 0b00100_0_0_00111_00110_010_00101_0101111#32 = .ok (.amoxorW 5 6 7 false false) ∧
    decodeWord 0b01100_0_0_00111_00110_010_00101_0101111#32 = .ok (.amoandW 5 6 7 false false) ∧
    decodeWord 0b01000_0_0_00111_00110_010_00101_0101111#32 = .ok (.amoorW 5 6 7 false false) ∧
    decodeWord 0b10000_0_0_00111_00110_010_00101_0101111#32 = .ok (.amominW 5 6 7 false false) ∧
    decodeWord 0b10100_0_0_00111_00110_010_00101_0101111#32 = .ok (.amomaxW 5 6 7 false false) ∧
    decodeWord 0b11000_0_0_00111_00110_010_00101_0101111#32 = .ok (.amominuW 5 6 7 false false) ∧
    decodeWord 0b11100_0_0_00111_00110_010_00101_0101111#32 = .ok (.amomaxuW 5 6 7 false false) := by
  decide

/-- Words that do not decode, each refused by name (R141; vectors I 15, 16, 28, LS 26, 27, CT 14, 25, A 28, 29, CSR 41,
P 7, 15, 16). -/
theorem test_decode_rejects :
    decodeWord 0x02031293#32 = .error .unknownFunct7 ∧
    decodeWord 0x20035293#32 = .error .unknownFunct7 ∧
    decodeWord 0x407312B3#32 = .error .unknownFunct3 ∧
    decodeWord 0x00033283#32 = .error .unknownFunct3 ∧
    decodeWord 0x00733023#32 = .error .unknownFunct3 ∧
    decodeWord 0x00732463#32 = .error .unknownFunct3 ∧
    decodeWord 0x000310E7#32 = .error .unknownFunct3 ∧
    decodeWord 0x0000100F#32 = .error .unknownFunct3 ∧
    decodeWord 0x30004073#32 = .error .unknownFunct3 ∧
    decodeWord 0x007332AF#32 = .error .unknownFunct3 ∧
    decodeWord 0x287322AF#32 = .error .unknownFunct5 ∧
    decodeWord 0x000000F3#32 = .error .unknownSystem ∧
    decodeWord 0x00008073#32 = .error .unknownSystem ∧
    decodeWord 0x12000073#32 = .error .unknownSystem ∧
    decodeWord 0x00200073#32 = .error .unknownSystem ∧
    decodeWord 0xFFFFFFFF#32 = .error .unknownOpcode ∧
    decodeWord 0x00000001#32 = .error .unknownOpcode := by
  decide

/-- Too few bytes are refused too, and a table word is read as memory holds it (R120, R90). -/
theorem test_decode_bytes :
    decode [0x93#8, 0x02#8, 0xF3#8] = .error .truncated ∧
    decode [0x93#8, 0x02#8, 0xF3#8, 0xFF#8, 0x01#8] = .ok (.addi 5 6 0xFFF, [0x01#8]) ∧
    decodeTableWord 32 0xFFF30293 = some (.addi 5 6 0xFFF) ∧ decodeTableWord 32 0 = none := by
  decide

/-! ## Integer computation (vectors of tables I and M) -/

theorem test_addi_wraps : x5 (start 0x7FF30293 0x7FFFFFFF#32 0x0#32) = some 0x800007FE#32 := by decide
theorem test_slti : x5 (start 0xFFF32293 0x80000000#32 0x0#32) = some 0x1#32 := by decide
theorem test_sltiu_extends : x5 (start 0xFFF33293 0x5#32 0x0#32) = some 0x1#32 := by decide
theorem test_xori : x5 (start 0xFFF34293 0xF0F0F0F#32 0x0#32) = some 0xF0F0F0F0#32 := by decide
theorem test_ori : x5 (start 0x80036293 0x1#32 0x0#32) = some 0xFFFFF801#32 := by decide
theorem test_andi : x5 (start 0xFF037293 0x12345678#32 0x0#32) = some 0x12345670#32 := by decide
theorem test_slli : x5 (start 0x01F31293 0x3#32 0x0#32) = some 0x80000000#32 := by decide
theorem test_srli : x5 (start 0x01F35293 0x80000000#32 0x0#32) = some 0x1#32 := by decide
theorem test_srai : x5 (start 0x41F35293 0x80000000#32 0x0#32) = some 0xFFFFFFFF#32 := by decide
theorem test_lui : x5 (start 0xFFFFF2B7 0x0#32 0x0#32) = some 0xFFFFF000#32 := by decide
theorem test_auipc : x5 (start 0xFFFFF297 0x0#32 0x0#32) = some 0x7FFFF000#32 := by decide
theorem test_add_wraps : x5 (start 0x007302B3 0x7FFFFFFF#32 0x1#32) = some 0x80000000#32 := by decide
theorem test_sub : x5 (start 0x407302B3 0x0#32 0x1#32) = some 0xFFFFFFFF#32 := by decide
theorem test_sll_low_bits : x5 (start 0x007312B3 0x1#32 0x21#32) = some 0x2#32 := by decide
theorem test_srl : x5 (start 0x007352B3 0x80000000#32 0xFFFFFFFF#32) = some 0x1#32 := by decide
theorem test_sra : x5 (start 0x407352B3 0xF0000000#32 0x4#32) = some 0xFF000000#32 := by decide
theorem test_slt : x5 (start 0x007322B3 0xFFFFFFFF#32 0x1#32) = some 0x1#32 := by decide
theorem test_sltu : x5 (start 0x007332B3 0xFFFFFFFF#32 0x1#32) = some 0x0#32 := by decide
theorem test_xor : x5 (start 0x007342B3 0xF0F0F0F#32 0xFF#32) = some 0xF0F0FF0#32 := by decide
theorem test_or : x5 (start 0x007362B3 0xF0#32 0xF#32) = some 0xFF#32 := by decide
theorem test_and : x5 (start 0x007372B3 0xF0F0#32 0xFF00#32) = some 0xF000#32 := by decide
theorem test_mul : x5 (start 0x027302B3 0xFFFFFFFE#32 0x3#32) = some 0xFFFFFFFA#32 := by decide
theorem test_mulh : x5 (start 0x027312B3 0x80000000#32 0x80000000#32) = some 0x40000000#32 := by decide
theorem test_mulhsu : x5 (start 0x027322B3 0x2#32 0xFFFFFFFF#32) = some 0x1#32 := by decide
theorem test_mulhsu_signed : x5 (start 0x027322B3 0xFFFFFFFF#32 0xFFFFFFFF#32) = some 0xFFFFFFFF#32 := by decide
theorem test_mulhu : x5 (start 0x027332B3 0xFFFFFFFF#32 0xFFFFFFFF#32) = some 0xFFFFFFFE#32 := by decide
theorem test_div : x5 (start 0x027342B3 0x7#32 0xFFFFFFFE#32) = some 0xFFFFFFFD#32 := by decide
theorem test_div_overflow : x5 (start 0x027342B3 0x80000000#32 0xFFFFFFFF#32) = some 0x80000000#32 := by decide
theorem test_rem : x5 (start 0x027362B3 0xFFFFFFF9#32 0x2#32) = some 0xFFFFFFFF#32 := by decide
theorem test_rem_overflow : x5 (start 0x027362B3 0x80000000#32 0xFFFFFFFF#32) = some 0x0#32 := by decide
theorem test_divu : x5 (start 0x027352B3 0xFFFFFFFE#32 0x7#32) = some 0x24924924#32 := by decide
theorem test_divu_by_zero : x5 (start 0x020352B3 0x5#32 0x0#32) = some 0xFFFFFFFF#32 := by decide
theorem test_remu : x5 (start 0x027372B3 0xFFFFFFFE#32 0x7#32) = some 0x2#32 := by decide
theorem test_remu_by_zero : x5 (start 0x020372B3 0x5#32 0x0#32) = some 0x5#32 := by decide
theorem test_addi_x0 : after (start 0x00530013 1#32 0#32) (fun t => t.regs[0]) = some 0#32 := by decide
theorem test_add_source_is_destination : x5 ((start 0x005282B3 0#32 0#32).writeReg 5#5 0x80000001#32) = some 2#32 := by decide

/-! ## Loads, stores, FENCE (table LS) -/

def memA : Word := 0x8091A2F3#32
def loadFrom (w : Nat) (x6 : Word) : State := withA memA (start w x6 0#32)

theorem test_lb : x5 (loadFrom 0x00130283 wordA) = some 0xFFFFFFA2#32 := by decide
theorem test_lbu : x5 (loadFrom 0x00334283 wordA) = some 0x80#32 := by decide
theorem test_lh : x5 (loadFrom 0x00031283 wordA) = some 0xFFFFA2F3#32 := by decide
theorem test_lhu_odd : x5 (loadFrom 0x00335283 wordA) = some 0x80#32 := by decide
theorem test_lw_negative : x5 (loadFrom 0xFFC32283 (wordA + 4#32)) = some 0x8091A2F3#32 := by decide
theorem test_lb_last_byte : x5 (loadFrom 0x00030283 0x807FFFFF#32) = some 0x0#32 := by decide
theorem test_lw_rom : x5 (loadFrom 0x00032283 0x1000#32) = some 0x0#32 := by decide
theorem test_lw_misaligned : trapCause (loadFrom 0x00132283 wordA) = some (0#32, 4#32, 0x77#32) := by decide
theorem test_lw_x0_unmapped_destination_x0 : trapCause (loadFrom 0x00002003 0#32) = some (0#32, 5#32, 0x77#32) := by decide
theorem test_lh_last_byte : trapCause (loadFrom 0x00031283 0x807FFFFF#32) = some (0#32, 5#32, 0x77#32) := by decide
theorem test_lhu_unmapped : trapCause (loadFrom 0x00035283 0x80800000#32) = some (0#32, 5#32, 0x77#32) := by decide
theorem test_lbu_uart : x5 (start 0x00034283 0x10000000#32 0#32) = some (zext8 (Config.deviceRead 0 0x10000000#32)) := rfl
theorem test_sb : wordAtA (withA memA (start 0x007300A3 wordA 0x1234567F#32)) = some 0x80917FF3#32 := by decide
theorem test_sh : wordAtA (withA memA (start 0x00731123 wordA 0x1234BEEF#32)) = some 0xBEEFA2F3#32 := by decide
theorem test_sh_odd : wordAtA (withA memA (start 0x007311A3 wordA 0x1234BEEF#32)) = some 0xEF91A2F3#32 := by decide
theorem test_sw : wordAtA (withA memA (start 0x00732023 wordA 0xCAFEBABE#32)) = some 0xCAFEBABE#32 := by decide
theorem test_sw_misaligned :
    after (withA memA (start 0x00732123 wordA 0xCAFEBABE#32)) (fun t => (t.csrAt csrMcause, t.mem.wordAt wordA)) =
      some (6#32, memA) := by decide
theorem test_sw_rom :
    after (start 0x00732023 0x1000#32 9#32) (fun t => (t.csrAt csrMcause, t.mem.read 0x1000#32)) =
      some (7#32, 0#8) := by decide
theorem test_sh_last_byte :
    after (start 0x00731023 0x807FFFFF#32 0xBBAA#32) (fun t => (t.csrAt csrMcause, t.mem.wordAt 0x807FFFFC#32)) =
      some (7#32, 0xAA000000#32) := by decide
theorem test_sb_uart :
    after (start 0x00730023 0x10000000#32 0x41#32) (fun t => t.deviceEvents) = some [.write 0x10000000#32 0x41#8] := by
  decide
theorem test_fence :
    after ({ start 0x0FF0000F 0#32 0#32 with reservation := some wordA }) (fun t => (t.pc, t.reservation, t.retireCount)) =
      some (0x80000004#32, some wordA, 1#64) := by decide

/-! ## Control transfer and fetch (table CT) -/

theorem test_beq_taken : nextPc (start 0x00730463 0x5#32 0x5#32) = some 0x80000008#32 := by decide
theorem test_beq_not_taken : nextPc (start 0x00730463 0x5#32 0x6#32) = some 0x80000004#32 := by decide
theorem test_bne : nextPc (start 0xFE731EE3 0x5#32 0x6#32) = some 0x7FFFFFFC#32 := by decide
theorem test_blt : nextPc (start 0x00734863 0xFFFFFFFF#32 0x1#32) = some 0x80000010#32 := by decide
theorem test_bge_equal : nextPc (start 0x00735863 0x3#32 0x3#32) = some 0x80000010#32 := by decide
theorem test_bltu : nextPc (start 0x00736863 0xFFFFFFFF#32 0x1#32) = some 0x80000004#32 := by decide
theorem test_bgeu : nextPc (start 0xFE737CE3 0xFFFFFFFF#32 0x1#32) = some 0x7FFFFFF8#32 := by decide
theorem test_beq_largest : nextPc (start 0x7E000FE3 0x0#32 0x0#32) = some 0x80000FFE#32 := by decide
theorem test_beq_smallest : nextPc (start 0x80000063 0x0#32 0x0#32) = some 0x7FFFF000#32 := by decide
theorem test_jal :
    after (start 0x800000EF 0#32 0#32) (fun t => (t.pc, t.readReg 1#5)) = some (0x7FF00000#32, 0x80000004#32) := by decide
theorem test_jal_misaligned :
    after (start 0x7FFFF0EF 0#32 0#32) (fun t => (t.csrAt csrMcause, t.csrAt csrMepc, t.readReg 1#5)) =
      some (0#32, 0x80000000#32, 0#32) := by decide
theorem test_jalr_clears_bit0 :
    after (start 0x001300E7 0x80000100#32 0#32) (fun t => (t.pc, t.readReg 1#5)) =
      some (0x80000100#32, 0x80000004#32) := by decide
theorem test_jalr_source_is_destination :
    after (start 0x00030367 0x80000100#32 0#32) (fun t => (t.pc, t.readReg 6#5)) =
      some (0x80000100#32, 0x80000004#32) := by decide
theorem test_fetch_misaligned :
    after ({ State.reset with pc := 0x8000001E#32 }) (fun t => (t.csrAt csrMcause, t.csrAt csrMepc)) =
      some (0#32, 0x8000001C#32) := by decide
theorem test_fetch_unmapped :
    after ({ State.reset with pc := 0#32 }) (fun t => (t.csrAt csrMcause, t.csrAt csrMepc, t.pc)) =
      some (1#32, 0#32, 0#32) := by decide
theorem test_undecodable :
    after (start 0x00000000 0#32 0#32) (fun t => (t.csrAt csrMcause, t.csrAt csrMepc, t.csrAt csrMstatus, t.retireCount)) =
      some (2#32, 0x80000000#32, 0x1800#32, 0#64) := by decide

/-! ## Atomics (table A, and the examples of R264 to R272) -/

def atomic (w : Nat) (x7 memory : Word) (reservation : Option Word) : State :=
  { withA memory (start w wordA x7) with reservation := reservation }
/-- x5, the word at A, and the reservation. -/
def atomicResult (s : State) : Option (Word × Word × Option Word) :=
  after s fun t => (t.readReg 5#5, t.mem.wordAt wordA, t.reservation)

theorem test_lr : atomicResult (atomic 0x100322AF 0x1#32 0x80000000#32 none) = some (0x80000000#32, 0x80000000#32, some wordA) := by decide
theorem test_lr_replaces : atomicResult (atomic 0x107322AF 0x1#32 0x80000000#32 (some 0x80001008#32)) = some (0x80000000#32, 0x80000000#32, some wordA) := by decide
theorem test_sc_succeeds : atomicResult (atomic 0x187322AF 0x9#32 0x80000000#32 (some wordA)) = some (0x0#32, 0x9#32, none) := by decide
theorem test_sc_fails : atomicResult (atomic 0x187322AF 0x9#32 0x80000000#32 (some 0x80001004#32)) = some (0x1#32, 0x80000000#32, none) := by decide
theorem test_amoswap : atomicResult (atomic 0x087322AF 0xFFFFFFFD#32 0x5#32 none) = some (0x5#32, 0xFFFFFFFD#32, none) := by decide
theorem test_amoadd_wraps : atomicResult (atomic 0x007322AF 0x80000000#32 0x80000000#32 none) = some (0x80000000#32, 0x0#32, none) := by decide
theorem test_amoxor : atomicResult (atomic 0x207322AF 0x6#32 0x5#32 none) = some (0x5#32, 0x3#32, none) := by decide
theorem test_amoand : atomicResult (atomic 0x607322AF 0xFFFFFFFD#32 0x5#32 none) = some (0x5#32, 0x5#32, none) := by decide
theorem test_amoor_breaks_reservation : atomicResult (atomic 0x407322AF 0x1#32 0x80000000#32 (some wordA)) = some (0x80000000#32, 0x80000001#32, none) := by decide
theorem test_amomin : atomicResult (atomic 0x807322AF 0x1#32 0x80000000#32 none) = some (0x80000000#32, 0x80000000#32, none) := by decide
theorem test_amomax : atomicResult (atomic 0xA07322AF 0x1#32 0x80000000#32 none) = some (0x80000000#32, 0x1#32, none) := by decide
theorem test_amominu : atomicResult (atomic 0xC07322AF 0x1#32 0x80000000#32 none) = some (0x80000000#32, 0x1#32, none) := by decide
theorem test_amomaxu : atomicResult (atomic 0xE07322AF 0x1#32 0x80000000#32 none) = some (0x80000000#32, 0x80000000#32, none) := by decide
theorem test_sc_rom :
    after ({ start 0x187322AF 0x1000#32 9#32 with reservation := some 0x1000#32 })
      (fun t => (t.csrAt csrMcause, t.readReg 5#5, t.reservation)) = some (7#32, 0x77#32, none) := by decide
theorem test_amoadd_misaligned : trapCause (start 0x007322AF 0x80001002#32 1#32) = some (0#32, 4#32, 0x77#32) := by decide

/-! ## CSRs (table CSR) -/

def csrCase (w : Nat) (p : Priv) (i : CsrIdx) (v x6 : Word) : State := ((start w x6 0#32).setPriv p).setCsr i v
/-- x5, and a CSR's storage word. -/
def csrResult (j : CsrIdx) (s : State) : Option (Word × Word) := after s fun t => (t.readReg 5#5, t.csrAt j)

theorem test_csrrw : csrResult 0x340#12 (csrCase 0x340312F3 .machine 0x340#12 0x11#32 0x22#32) = some (0x11#32, 0x22#32) := by decide
theorem test_csrrw_sstatus : csrResult 0x300#12 (csrCase 0x100312F3 .machine 0x300#12 0x0#32 0xFFFFFFFF#32) = some (0x0#32, 0x800DE762#32) := by decide
theorem test_csrrs_sstatus : csrResult 0x300#12 (csrCase 0x100322F3 .machine 0x300#12 0x1888#32 0x2#32) = some (0x0#32, 0x188A#32) := by decide
theorem test_csrrs_read_only : csrResult 0xC00#12 (csrCase 0xC00022F3 .user 0x340#12 0x0#32 0x0#32) = some (0x0#32, 0x0#32) := by decide
theorem test_csrrc : csrResult 0x300#12 (csrCase 0x300332F3 .machine 0x300#12 0x88#32 0x8#32) = some (0x88#32, 0x80#32) := by decide
theorem test_csrrwi : csrResult 0x340#12 (csrCase 0x340FD2F3 .machine 0x340#12 0x11#32 0x0#32) = some (0x11#32, 0x1F#32) := by decide
theorem test_csrrsi : csrResult 0x300#12 (csrCase 0x300462F3 .machine 0x300#12 0x0#32 0x0#32) = some (0x0#32, 0x8#32) := by decide
theorem test_csrrci : csrResult 0x300#12 (csrCase 0x300472F3 .machine 0x300#12 0x88#32 0x0#32) = some (0x88#32, 0x80#32) := by decide
theorem test_mepc_low_bits : csrResult 0x341#12 (csrCase 0x341312F3 .machine 0x341#12 0x0#32 0x80000007#32) = some (0x0#32, 0x80000004#32) := by decide
theorem test_mip_masked_read : csrResult 0x344#12 (csrCase 0x344322F3 .machine 0x344#12 0xFFFF0000#32 0x1#32) = some (0x0#32, 0x1#32) := by decide
theorem test_tselect : csrResult 0x7A0#12 (csrCase 0x7A0312F3 .machine 0x7A0#12 0x0#32 0x5#32) = some (0xFFFFFFFF#32, 0x5#32) := by decide
theorem test_minstret_written : csrResult 0xB02#12 (csrCase 0xB02312F3 .machine 0xB02#12 0x7#32 0x64#32) = some (0x7#32, 0x64#32) := by decide
theorem test_csrrw_below_tier : trapCause ((start 0x340312F3 0#32 0#32).setPriv .supervisor) = some (0#32, 2#32, 0x77#32) := by decide
theorem test_csrrw_tier_two : trapCause ((start 0x200312F3 0#32 0#32).setPriv .supervisor) = some (0#32, 2#32, 0x77#32) := by decide
theorem test_csrrs_writes_read_only : trapCause ((start 0xC00322F3 0#32 0#32).setPriv .machine) = some (0#32, 2#32, 0x77#32) := by decide
theorem test_csrrsi_writes_read_only : trapCause ((start 0xF140E2F3 0#32 0#32).setPriv .machine) = some (0#32, 2#32, 0x77#32) := by decide
theorem test_counter_carry :
    after (((start 0x00000013 0#32 0#32).setCsr csrMinstret 0xFFFFFFFF#32)) (fun t => (t.csrAt csrMinstret, t.csrAt csrMinstreth)) =
      some (0#32, 1#32) := by decide
theorem test_counter_suppressed :
    after ({ start 0x00000013 0#32 0#32 with justLoaded := true }) (fun t => (t.retireCount, t.justLoaded)) =
      some (0#64, false) := by decide

/-! ## Privileged instructions and trap entry (table P) -/

def privileged (w : Nat) (p : Priv) (mstatus mtvec mepc : Word) : State :=
  ((((State.reset.withFetchWord 32 w).setPriv p).setCsr csrMstatus mstatus).setCsr csrMtvec mtvec).setCsr csrMepc mepc
/-- Level, pc, mstatus, mcause. -/
def privilegedResult (s : State) : Option (Priv × Word × Word × Word) :=
  after s fun t => (t.priv, t.pc, t.csrAt csrMstatus, t.csrAt csrMcause)

theorem test_ecall_user_vectored :
    privilegedResult (privileged 0x00000073 .user 0x8#32 0x80000101#32 0x0#32) = some (.machine, 0x80000120#32, 0x80#32, 0x8#32) := by decide
theorem test_ecall_machine_wraps :
    privilegedResult (privileged 0x00000073 .machine 0x0#32 0xFFFFFFFD#32 0x0#32) = some (.machine, 0x28#32, 0x1800#32, 0xB#32) := by decide
theorem test_ebreak_supervisor :
    privilegedResult (privileged 0x00100073 .supervisor 0xA#32 0x80000100#32 0x0#32) = some (.machine, 0x80000100#32, 0x882#32, 0x3#32) := by decide
theorem test_mret_to_user :
    privilegedResult (privileged 0x30200073 .machine 0x80#32 0x0#32 0x80000040#32) = some (.user, 0x80000040#32, 0x88#32, 0x0#32) := by decide
theorem test_mret_to_machine_keeps_mprv :
    privilegedResult (privileged 0x30200073 .machine 0x21808#32 0x0#32 0x80000040#32) = some (.machine, 0x80000040#32, 0x20080#32, 0x0#32) := by decide
theorem test_sret_user :
    privilegedResult (privileged 0x10200073 .user 0x122#32 0x0#32 0x0#32) = some (.user, 0x80000004#32, 0x122#32, 0x0#32) := by decide
theorem test_sret_machine :
    privilegedResult (privileged 0x10200073 .machine 0x122#32 0x0#32 0x0#32) = some (.machine, 0x80000004#32, 0x122#32, 0x0#32) := by decide
theorem test_mret_reserved_mpp :
    (match step (privileged 0x30200073 .machine 0x1000#32 0#32 0#32) with
      | .refused .mretReservedMpp => true | .refused _ => false | .next _ => false | .fault _ => false) = true := by decide

/-! ## Witnesses: what the statements assume can be met

One theorem for each statement with hypotheses, each clause at the ends of its range. `x6At a` is reset with x6 = a, so
that `loadAddress`, `storeAddress` and the atomics' address, through x6 and displacement 0, are a. -/

def x6At (a : Word) : State := State.reset.writeReg 6#5 a
def pcAt (a : Word) : State := { State.reset with pc := a }

/-- The ends of every region (R81). -/
theorem witness_regions :
    regionOf 0x00000000#32 = .unmapped ∧ regionOf 0x00000FFF#32 = .unmapped ∧ regionOf 0x00001000#32 = .rom ∧
    regionOf 0x00001FFF#32 = .rom ∧ regionOf 0x00002000#32 = .unmapped ∧ regionOf 0x0FFFFFFF#32 = .unmapped ∧
    regionOf 0x10000000#32 = .uart ∧ regionOf 0x10000007#32 = .uart ∧ regionOf 0x10000008#32 = .unmapped ∧
    regionOf 0x7FFFFFFF#32 = .unmapped ∧ regionOf 0x80000000#32 = .dram ∧ regionOf 0x807FFFFF#32 = .dram ∧
    regionOf 0x80800000#32 = .unmapped ∧ regionOf 0xFFFFFFFF#32 = .unmapped := by decide

theorem witness_DecodeInvertsEncode :
    (Instr.jal 31 0x1FFFFE#21).wellFormed = true ∧ (Instr.bgeu 31 31 0x1FFE#13).wellFormed = true ∧
    (Instr.amomaxuW 31 31 31 true true).wellFormed = true := by decide

theorem witness_EncodeInvertsDecode :
    decode [0xFF#8, 0xFF#8, 0xFF#8, 0x7F#8] = .error .unknownOpcode ∧
    decode [0xEF#8, 0xF0#8, 0xFF#8, 0x7F#8, 0xAA#8] = .ok (.jal 1 0x0FFFFE, [0xAA#8]) := by decide

theorem witness_DecoderAgreesWithOpcodeTable :
    decodeWord 0xFFFFFFB7#32 = .ok (.lui 31 0xFFFFF) ∧ (row "LUI" 0x7f 0x37).covers 0xFFFFFFB7#32 = true ∧
    row "LUI" 0x7f 0x37 ∈ opcodeTable ∧ (row "AMOMAXU.W" 0xf800707f 0xe000202f).covers 0xE7FFAFAF#32 = true ∧
    row "AMOMAXU.W" 0xf800707f 0xe000202f ∈ opcodeTable :=
  ⟨by decide, by decide, List.mem_of_getElem? (i := 0) rfl, by decide, List.mem_of_getElem? (i := 66) rfl⟩

/-- A state whose pc is `a` and whose word at `a` is `nop`, for the first and last words of DRAM and ROM. -/
theorem witness_StepRunsDecodedInstruction :
    ∀ a ∈ [0x80000000#32, 0x807FFFFC#32, 0x00001000#32, 0x00001FFC#32],
      let s := (pcAt a).load a (bytesOfWord 0x00000013#32)
      aligned4 s.pc = true ∧ (regionOf s.pc = .rom ∨ regionOf s.pc = .dram) ∧
        decode [s.mem.read s.pc, s.mem.read (s.pc + 1#32), s.mem.read (s.pc + 2#32), s.mem.read (s.pc + 3#32)] =
          .ok (.addi 0 0 0, []) := by
  intro a h; fin_cases h <;> decide

theorem witness_PlacedWordRuns :
    decodeWord 0x00000013#32 = .ok (.addi 0 0 0) ∧ fetchPlace (pcAt 0x80000002#32) = 0x80000000#32 ∧
    fetchPlace (pcAt 0x10000000#32) = 0x80000000#32 ∧ fetchPlace (pcAt 0x00001FFC#32) = 0x00001FFC#32 := by decide

theorem witness_FailedFetchTraps :
    aligned4 (pcAt 0x80000001#32).pc = false ∧ aligned4 (pcAt 0x80000002#32).pc = false ∧
    aligned4 (pcAt 0xFFFFFFFF#32).pc = false ∧
    (∀ a ∈ [0x0#32, 0xFFC#32, 0x2000#32, 0x10000008#32, 0x7FFFFFFC#32, 0x80800000#32, 0xFFFFFFFC#32],
      aligned4 (pcAt a).pc = true ∧ regionOf (pcAt a).pc = .unmapped) := by
  repeat' apply And.intro
  all_goals first | (intro a h; fin_cases h <;> decide) | decide

/-- One state for each way the statement names, at the first and last words of DRAM and ROM. -/
theorem witness_UndecodableWordTraps :
    ∀ a ∈ [0x80000000#32, 0x807FFFFC#32, 0x00001000#32, 0x00001FFC#32],
      let at_ (w : Word) : State := (pcAt a).load a (bytesOfWord w)
      aligned4 a = true ∧ (regionOf a = .rom ∨ regionOf a = .dram) ∧
      decodeWord ((at_ 0x10500073#32).mem.wordAt a) = .error .unknownSystem ∧
      opcodeTable.all (fun r => !r.covers ((at_ 0x0000100F#32).mem.wordAt a)) = true ∧
      ((at_ 0x00000012#32).mem.wordAt a).extractLsb' 0 2 ≠ 0b11#2 ∧
      ((at_ 0x00000053#32).mem.wordAt a).extractLsb' 0 7 = 0x53#7 ∧
      ((at_ 0xFFFFFF8B#32).mem.wordAt a).extractLsb' 0 7 = 0x0B#7 ∧
      ((at_ 0x0000003B#32).mem.wordAt a).extractLsb' 0 7 = 0x3B#7 ∧
      (pcAt a).mem.wordAt a = 0x00000000#32 ∧ (at_ 0xFFFFFFFF#32).mem.wordAt a = 0xFFFFFFFF#32 := by
  intro a h; fin_cases h <;> decide

/-- One instruction for each way to end: a plain one, a write of a counter half, a trap; and the refusal's state. -/
theorem witness_EveryInstructionRetiresOrTraps :
    transfersControl (.lw 5 6 0) = false ∧ transfersControl .mret = true ∧
    csrOperand (.csrrwi 0 5 csrMinstret) = some csrMinstret ∧
    (State.reset.setCsr csrMstatus 0x1000#32).priv = .machine ∧
    getMpp ((State.reset.setCsr csrMstatus 0x1000#32).csrAt csrMstatus) = 2#2 := by decide

theorem witness_RegisterFile : (1#5 : RegIdx) ≠ 0#5 ∧ (31#5 : RegIdx) ≠ 0#5 ∧ (31#5 : RegIdx) ≠ 1#5 := by decide

/-- The word a UART fetch makes is free, so one of the statement's two clauses holds of it, whichever it is. -/
theorem witness_FetchFromUartWindow (w : Word) :
    (aligned4 (pcAt 0x10000000#32).pc = true ∧ regionOf (pcAt 0x10000000#32).pc = .uart ∧
      aligned4 (pcAt 0x10000004#32).pc = true ∧ regionOf (pcAt 0x10000004#32).pc = .uart) ∧
    ((∃ i, decodeWord w = .ok i) ∨ ∃ why, decodeWord w = .error why) := by
  refine ⟨by decide, ?_⟩
  cases h : decodeWord w with
  | ok i => exact .inl ⟨i, rfl⟩
  | error why => exact .inr ⟨why, rfl⟩

theorem witness_DivisionIdentity : (1#5 : RegIdx) ≠ 0#5 ∧ (31#5 : RegIdx) ≠ 0#5 := by decide

theorem witness_LoadsFromMemory :
    (∀ a ∈ [0x1000#32, 0x1FFF#32, 0x80000000#32, 0x807FFFFF#32],
      regionOf (loadAddress (x6At a) 6#5 0#12) = .rom ∨ regionOf (loadAddress (x6At a) 6#5 0#12) = .dram) ∧
    (∀ a ∈ [0x1000#32, 0x1FFE#32, 0x80000001#32, 0x807FFFFE#32],
      (regionOf a = .rom ∨ regionOf a = .dram) ∧ (regionOf (a + 1#32) = .rom ∨ regionOf (a + 1#32) = .dram)) ∧
    (∀ a ∈ [0x1000#32, 0x1FFC#32, 0x80000000#32, 0x807FFFFC#32],
      (regionOf a = .rom ∨ regionOf a = .dram) ∧ aligned4 a = true) ∧
    loadAddress (x6At 0x80000000#32) 6#5 0x800#12 = 0x7FFFF800#32 := by
  repeat' apply And.intro
  all_goals first | (intro a h; fin_cases h <;> decide) | decide

theorem witness_FaultingLoads :
    (∀ a ∈ [0x0#32, 0xFFF#32, 0x2000#32, 0x10000008#32, 0x80800000#32, 0xFFFFFFFF#32],
      regionOf (loadAddress (x6At a) 6#5 0#12) = .unmapped) ∧
    (∀ a ∈ [0x1FFF#32, 0x807FFFFF#32],
      (regionOf a = .rom ∨ regionOf a = .dram) ∧ regionOf (a + 1#32) = .unmapped) ∧
    (∀ a ∈ [0x1#32, 0x2#32, 0x3#32, 0x80000001#32, 0xFFFFFFFF#32], aligned4 a = false) ∧
    (∀ a ∈ [0x0#32, 0x2000#32, 0xFFFFFFFC#32], aligned4 a = true ∧ regionOf a = .unmapped) := by
  repeat' apply And.intro
  all_goals (intro a h; fin_cases h <;> decide)

theorem witness_StoresToDram :
    (∀ a ∈ [0x80000000#32, 0x807FFFFF#32], regionOf (storeAddress (x6At a) 6#5 0#12) = .dram) ∧
    (∀ a ∈ [0x80000000#32, 0x807FFFFE#32], regionOf a = .dram ∧ regionOf (a + 1#32) = .dram) ∧
    (∀ a ∈ [0x80000000#32, 0x807FFFFC#32], regionOf a = .dram ∧ aligned4 a = true) := by
  repeat' apply And.intro
  all_goals (intro a h; fin_cases h <;> decide)

theorem witness_FaultingStores :
    (∀ a ∈ [0x1000#32, 0x1FFF#32], regionOf (storeAddress (x6At a) 6#5 0#12) = .rom) ∧
    (∀ a ∈ [0x0#32, 0x2000#32, 0x10000008#32, 0x80800000#32], regionOf (storeAddress (x6At a) 6#5 0#12) = .unmapped) ∧
    aligned4 0x80000003#32 = false ∧ aligned4 0x1FFC#32 = true ∧ regionOf 0x1FFC#32 = .rom ∧
    aligned4 0xFFFFFFFC#32 = true ∧ regionOf 0xFFFFFFFC#32 = .unmapped := by
  repeat' apply And.intro
  all_goals first | (intro a h; fin_cases h <;> decide) | decide

/-- The one DRAM byte and the one UART byte with nothing above them. -/
theorem witness_HalfwordStoreLeavesFirstByte :
    (∀ a ∈ [0x807FFFFF#32], regionOf (storeAddress (x6At a) 6#5 0#12) = .dram ∧ regionOf (a + 1#32) = .unmapped) ∧
    (∀ a ∈ [0x10000007#32], regionOf (storeAddress (x6At a) 6#5 0#12) = .uart ∧ regionOf (a + 1#32) = .unmapped) := by
  repeat' apply And.intro
  all_goals (intro a h; fin_cases h; decide)

theorem witness_UartAccesses :
    (∀ a ∈ [0x10000000#32, 0x10000007#32], regionOf (loadAddress (x6At a) 6#5 0#12) = .uart) ∧
    (∀ a ∈ [0x10000000#32, 0x10000004#32], regionOf a = .uart ∧ aligned4 a = true) := by
  repeat' apply And.intro
  all_goals (intro a h; fin_cases h <;> decide)

theorem witness_UartHalfwords :
    (∀ a ∈ [0x10000000#32, 0x10000006#32],
      regionOf (loadAddress (x6At a) 6#5 0#12) = .uart ∧ regionOf (a + 1#32) = .uart) ∧
    regionOf (loadAddress (x6At 0x10000007#32) 6#5 0#12) = .uart ∧
    regionOf (loadAddress (x6At 0x10000007#32) 6#5 0#12 + 1#32) = .unmapped := by
  repeat' apply And.intro
  all_goals first | (intro a h; fin_cases h <;> decide) | decide

theorem witness_WordsAreLittleEndian :
    ∀ a ∈ [0x80000000#32, 0x807FFFFC#32], aligned4 a = true ∧ regionOf a = .dram := by
  intro a h; fin_cases h <;> decide

theorem witness_JumpResults :
    let s := x6At 0x80000100#32
    (s.pc + (0x0FFFFC#21).signExtend 32).extractLsb' 0 2 = 0#2 ∧ (s.pc + (0x0FFFFE#21).signExtend 32).extractLsb' 0 2 ≠ 0#2 ∧
    ((s.readReg 6#5 + (1#12).signExtend 32) &&& ~~~1#32).getLsbD 1 = false ∧
    ((s.readReg 6#5 + (3#12).signExtend 32) &&& ~~~1#32).getLsbD 1 = true := by decide

theorem witness_LoadReservedResult :
    ∀ a ∈ [0x1000#32, 0x1FFC#32, 0x80000000#32, 0x807FFFFC#32],
      aligned4 ((x6At a).readReg 6#5) = true ∧ (regionOf ((x6At a).readReg 6#5) = .rom ∨ regionOf ((x6At a).readReg 6#5) = .dram) := by
  intro a h; fin_cases h <;> decide

theorem witness_StoreConditionalResult :
    let s (a : Word) (r : Option Word) : State := { x6At a with reservation := r }
    (∀ a ∈ [0x80000000#32, 0x807FFFFC#32], (s a (some a)).reservation = some ((s a (some a)).readReg 6#5) ∧
      aligned4 a = true ∧ regionOf a = .dram) ∧
    (∀ a ∈ [0x10000000#32, 0x10000004#32], (s a (some a)).reservation = some ((s a (some a)).readReg 6#5) ∧
      aligned4 a = true ∧ regionOf a = .uart) ∧
    (∀ a ∈ [0x1000#32, 0x1FFC#32], (s a (some a)).reservation = some ((s a (some a)).readReg 6#5) ∧
      aligned4 a = true ∧ regionOf a = .rom) ∧
    (∀ a ∈ [0x0#32, 0x80800000#32], (s a (some a)).reservation = some ((s a (some a)).readReg 6#5) ∧
      aligned4 a = true ∧ regionOf a = .unmapped) ∧
    (∀ a ∈ [0x80000001#32, 0x1002#32], (s a (some a)).reservation = some ((s a (some a)).readReg 6#5) ∧
      aligned4 a = false) ∧
    (s 0#32 none).reservation ≠ some ((s 0#32 none).readReg 6#5) ∧
    (s 1#32 (some 0#32)).reservation ≠ some ((s 1#32 (some 0#32)).readReg 6#5) := by
  repeat' apply And.intro
  all_goals first | (intro a h; fin_cases h <;> decide) | decide

/-- LR.W x5, (x6) and SC.W x7, x8, (x6): both complete, from the last word of DRAM. -/
theorem witness_LoadReservedStoreConditionalPair :
    let s := x6At 0x807FFFFC#32
    aligned4 (s.readReg 6#5) = true ∧ regionOf (s.readReg 6#5) = .dram ∧ (5#5 : RegIdx) ≠ 6#5 ∧ (7#5 : RegIdx) ≠ 6#5 ∧
      ∃ s1 s2, exec (.lrW 5 6 0 false false) s = .next s1 ∧ exec (.scW 7 6 8 false false) s1 = .next s2 :=
  ⟨by decide, by decide, by decide, by decide, _, _, rfl, rfl⟩

theorem witness_AmoResults :
    (∀ a ∈ [0x80000000#32, 0x807FFFFC#32], aligned4 ((x6At a).readReg 6#5) = true ∧ regionOf ((x6At a).readReg 6#5) = .dram) ∧
    (Instr.amoswapW, fun (_ : Word) (src : Word) => src) ∈
      ([(.amoswapW, fun _ src => src)] : List ((RegIdx → RegIdx → RegIdx → Bool → Bool → Instr) × (Word → Word → Word))) :=
  ⟨by intro a h; fin_cases h <;> decide, List.mem_cons_self⟩

theorem witness_UartAtomics :
    ∀ a ∈ [0x10000000#32, 0x10000004#32], aligned4 ((x6At a).readReg 6#5) = true ∧ regionOf ((x6At a).readReg 6#5) = .uart := by
  intro a h; fin_cases h <;> decide

theorem witness_FaultingAtomics :
    aligned4 ((x6At 0x80000002#32).readReg 6#5) = false ∧
    aligned4 ((x6At 0x80800000#32).readReg 6#5) = true ∧ regionOf ((x6At 0x80800000#32).readReg 6#5) = .unmapped ∧
    aligned4 ((x6At 0x1FFC#32).readReg 6#5) = true ∧ regionOf ((x6At 0x1FFC#32).readReg 6#5) = .rom ∧
    Instr.amoaddW 5 6 7 false false ≠ .lrW 5 6 7 false false ∧
    Instr.lrW ∈ ([.lrW, .amoswapW] : List (RegIdx → RegIdx → RegIdx → Bool → Bool → Instr)) :=
  ⟨by decide, by decide, by decide, by decide, by decide, by decide, List.mem_cons_self⟩

/-- The levels at the ends of their tiers, an index on either side of the read-only mark, both fields. -/
theorem witness_CsrInstructionResults :
    csrTier 0x0FF#12 ≤ Priv.level .user ∧ csrTier 0x1FF#12 ≤ Priv.level .supervisor ∧
    csrTier 0xBFF#12 ≤ Priv.level .machine ∧ csrReadOnly 0xBFF#12 = false ∧ csrReadOnly 0xC00#12 = true ∧
    csrTier 0xC00#12 ≤ Priv.level .user ∧ csrTier 0xFFF#12 ≤ Priv.level .machine ∧ (1#5 : RegIdx) ≠ 0#5 := by decide

theorem witness_CsrInstructionFaults :
    Priv.level .user < ((0x100#12 : CsrIdx).extractLsb' 8 2).toNat ∧
    Priv.level .supervisor < ((0x2FF#12 : CsrIdx).extractLsb' 8 2).toNat ∧
    (0xC00#12 : CsrIdx).extractLsb' 10 2 = 3#2 ∧ (0xFFF#12 : CsrIdx).extractLsb' 10 2 = 3#2 ∧
    (0xBFF#12 : CsrIdx).extractLsb' 10 2 ≠ 3#2 ∧ (31#5 : RegIdx) ≠ 0#5 := by decide

theorem witness_CsrReadTransforms : (0x000#12 : CsrIdx) ∉ [0x300#12, 0x100#12, 0x344#12, 0x304#12, 0x7A0#12] := by decide

theorem witness_MstatusFieldsRoundTrip : MstatusField.sd ≠ .bit0 ∧ (0x301#12 : CsrIdx) ≠ csrMstatus := by decide

theorem witness_CheckedCsrWrite :
    csrReadOnly 0xC00#12 = true ∧ Priv.level .user < csrTier 0x100#12 ∧ csrReadOnly 0xBFF#12 = false ∧
    csrTier 0xBFF#12 ≤ Priv.level .machine ∧ csrTier 0x0FF#12 ≤ Priv.level .user := by decide

theorem witness_RetireCounterStep :
    State.reset.justLoaded = false ∧ ({ State.reset with justLoaded := true } : State).justLoaded = true ∧
    (0xB01#12 : CsrIdx) ≠ 0xB02#12 ∧ (0xB01#12 : CsrIdx) ≠ 0xB82#12 := by decide

theorem witness_EnvironmentTraps :
    (State.reset.setPriv .user).priv = .user ∧ (State.reset.setPriv .supervisor).priv = .supervisor ∧
    State.reset.priv = .machine := by decide

theorem witness_MretReturns :
    State.reset.priv = .machine ∧ getMpp (State.reset.csrAt csrMstatus) = Priv.bits .user ∧
    getMpp ((State.reset.setCsr csrMstatus 0x800#32).csrAt csrMstatus) = Priv.bits .supervisor ∧
    getMpp ((State.reset.setCsr csrMstatus 0x1800#32).csrAt csrMstatus) = Priv.bits .machine := by decide

theorem witness_MretTrapsOrIsRefused :
    (State.reset.setPriv .user).priv ≠ .machine ∧ (State.reset.setPriv .supervisor).priv ≠ .machine ∧
    (State.reset.setCsr csrMstatus 0x1000#32).priv = .machine ∧
    getMpp ((State.reset.setCsr csrMstatus 0x1000#32).csrAt csrMstatus) = 2#2 := by decide

theorem witness_TrapThenMretRestores : State.reset.pc.extractLsb' 0 2 = 0#2 ∧ (pcAt 0xFFFFFFFC#32).pc.extractLsb' 0 2 = 0#2 := by
  decide

/-- An MRET that completes, in Machine mode, and a step that has a next state. -/
theorem witness_PrivilegeChanges :
    (∃ t, exec .mret State.reset = .next t) ∧ State.reset.priv = .machine ∧ ∃ t, step (pcAt 0#32) = .next t :=
  ⟨⟨_, rfl⟩, rfl, ⟨_, rfl⟩⟩

/-- An instruction below Machine mode that completes and stays in its mode. -/
theorem witness_LowerModesCannotChangeHigherCsrs :
    (∃ t, exec (.addi 5 6 0) (State.reset.setPriv .user) = .next t ∧ t.priv = Priv.user) ∧
    Priv.level .user < csrTier 0x3FF#12 ∧ (∃ t, exec (.csrrw 0 6 0x100) (State.reset.setPriv .supervisor) = .next t ∧ t.priv = Priv.supervisor) ∧
    Priv.level .supervisor < csrTier csrMstatus ∧ csrMstatus ≠ csrMinstret ∧ csrMstatus ≠ csrMinstreth :=
  ⟨⟨_, rfl, rfl⟩, by decide, ⟨_, rfl, rfl⟩, by decide, by decide, by decide⟩

theorem witness_OtherInstructionsIgnoreTheMode : modeSensitive (.lw 5 6 0) = false ∧ modeSensitive .sret = false := by decide

theorem witness_UnsetVectorTrapsForEver : (pcAt 0#32).pc = 0#32 ∧ (pcAt 0#32).csrAt csrMtvec = 0#32 := by decide

/-- A completed instruction with a destination and one without, and one that traps. -/
theorem witness_OnlyTheDestinationRegisterChanges :
    (∃ t, exec (.add 5 6 7) State.reset = .next t) ∧ destination (.add 5 6 7) ≠ some 6#5 ∧
    (∃ t, exec .ecall State.reset = .next t) ∧ destination .ecall ≠ some 0#5 :=
  ⟨⟨_, rfl⟩, by decide, ⟨_, rfl⟩, by decide⟩

theorem witness_OnlyStoresChangeMemory :
    (∃ t, exec (.add 5 6 7) State.reset = .next t) ∧ storesMemory (.add 5 6 7) = false ∧
    (∃ t, step (pcAt 0#32) = .next t) ∧ regionOf 0x1000#32 ≠ .dram :=
  ⟨⟨_, rfl⟩, by decide, ⟨_, rfl⟩, by decide⟩

theorem witness_ReservationChanges :
    (∃ t, exec (.add 5 6 7) State.reset = .next t) ∧ storesMemory (.add 5 6 7) = false ∧
    (∃ t, exec (.sw 6 7 0) (x6At 0x80000000#32) = .next t) ∧ storesMemory (.sw 6 7 0) = true ∧
    (∃ t, exec (.scW 5 6 7 false false) State.reset = .next t) :=
  ⟨⟨_, rfl⟩, by decide, ⟨_, rfl⟩, by decide, ⟨_, rfl⟩⟩

/-- A state that meets the invariant, and its next state. -/
theorem witness_StepKeepsInvariant : State.reset.Inv ∧ ∃ t, step State.reset = .next t := by
  refine ⟨⟨by decide, rfl, rfl, rfl, by decide, fun _ _ => rfl, rfl, by decide, fun _ h => ?_⟩, _, rfl⟩
  cases h

end Sys2Proof.Tests
end

section
/-! The state's accessors (R21, R22, R35): the register file and the checked CSR write. -/

namespace Sys2Proof.Machine

theorem State.readReg_of_ne_zero (s : State) {r : RegIdx} (h : r ≠ 0#5) : s.readReg r = s.regs[r.toNat]'r.isLt :=
  if_neg h

theorem State.readReg_writeReg_of_ne (s : State) {q r : RegIdx} (h : q ≠ r) (v : Word) :
    (s.writeReg r v).readReg q = s.readReg q := by
  have miss : ¬(q = r ∧ r ≠ 0#5) := fun hit => h hit.1
  rw [State.readReg_writeReg, if_neg miss]

theorem State.writeReg_frame (s : State) (r : RegIdx) (v : Word) :
    s.writeReg r v = { s with regs := (s.writeReg r v).regs } := rfl

/-- Settles O11: index 0 by the two rules of `x0`, any other index by the rules of a read after a write. -/
theorem registerFile : Obligations.RegisterFile := by
  intro s r v
  refine ⟨s.readReg_zero, s.writeReg_zero v, State.readReg_zero _, fun hr => ?_⟩
  exact ⟨s.readReg_of_ne_zero hr, s.readReg_writeReg_self hr v, fun _ hq => s.readReg_writeReg_of_ne hq v,
    s.writeReg_frame r v⟩

/-- The checked write raises in no other case: where the gate lets it through, it completes. -/
theorem csrWrite_eq_raise_iff {i : CsrIdx} {v : Word} {s : State} :
    csrWrite i v s = .raise illegal s ↔ s.priv.level < csrTier i ∨ csrReadOnly i = true := by
  refine ⟨fun raised => ?_, fun barred => csrWrite_raise barred v⟩
  by_contra allowed
  obtain ⟨reaches, writable⟩ := not_or.mp allowed
  rw [csrWrite_ok (Nat.not_lt.mp reaches) (Bool.eq_false_of_not_eq_true writable)] at raised
  cases raised

/-- Settles O42: the gate's two outcomes, `csrWrite_eq_raise_iff` and `csrWrite_ok`. -/
theorem checkedCsrWrite : Obligations.CheckedCsrWrite := by
  intro i v s
  exact ⟨or_comm.trans csrWrite_eq_raise_iff.symm, fun writable reaches => csrWrite_ok reaches writable v⟩

end Sys2Proof.Machine
end

section
/-! A word in DRAM seen through every access: bytes, halfwords, the word itself and the fetch (R86, R90, R92). -/

namespace Sys2Proof.Machine

/-- Two neighbouring bytes of a word are its halfword there (R90). -/
theorem halfOfBytes_byte (w : Word) (k : Nat) :
    halfOfBytes (w.byte k) (w.byte (k + 1)) = w.extractLsb' (8 * k) 16 :=
  BitVec.extractLsb'_append_extractLsb'_eq_extractLsb' (Nat.mul_succ 8 k)

theorem backed_add_of_aligned4 {a : Word} (h : aligned4 a = true) (hb : backed a) {k : Nat} (hk : k < 4) :
    backed (a + BitVec.ofNat 32 k) := by
  unfold backed
  rwa [regionOf_add_of_aligned4 h hk]

theorem memWriteWord_dram_storesBytes {a : Word} (h : aligned4 a = true) (hd : regionOf a = .dram) (w : Word) (s : State) :
    ∃ t, memWriteWord a w s = .ok () t ∧ StoresBytes a (bytesOfWord w) s t :=
  ⟨_, memWriteWord_dram h hd w s, storesBytes_four ..⟩

theorem bytesOfWord_getElem? (w : Word) {k : Nat} (hk : k < 4) : (bytesOfWord w)[k]? = some (w.byte k) := by
  interval_cases k <;> rfl

section StoredWord
variable {a w : Word} {s t : State} (stored : StoresBytes a (bytesOfWord w) s t)
include stored

theorem StoresBytes.read_byte {k : Nat} (hk : k < 4) : t.mem.read (a + BitVec.ofNat 32 k) = w.byte k := by
  obtain ⟨reads, -⟩ := stored
  exact reads k _ (bytesOfWord_getElem? w hk)

theorem StoresBytes.halfAt_word {k : Nat} (hk : k + 1 < 4) :
    t.mem.halfAt (a + BitVec.ofNat 32 k) = w.extractLsb' (8 * k) 16 := by
  have next : a + BitVec.ofNat 32 k + 1#32 = a + BitVec.ofNat 32 (k + 1) := by
    rw [BitVec.add_assoc, BitVec.ofNat_add]
  rw [Memory.halfAt, next, stored.read_byte (by omega), stored.read_byte hk, halfOfBytes_byte]

theorem StoresBytes.wordAt_word : t.mem.wordAt a = w := by
  have b0 : t.mem.read a = w.byte 0 := by simpa using stored.read_byte (k := 0) (by omega)
  rw [Memory.wordAt, b0, stored.read_byte (k := 1) (by omega), stored.read_byte (k := 2) (by omega),
    stored.read_byte (k := 3) (by omega), wordOfBytes_byte]

theorem StoresBytes.memReadByte_word (h : aligned4 a = true) (hb : backed a) {k : Nat} (hk : k < 4) :
    memReadByte (a + BitVec.ofNat 32 k) t = .ok (w.extractLsb' (8 * k) 8) t := by
  rw [memReadByte_backed (backed_add_of_aligned4 h hb hk), stored.read_byte hk, Word.byte]

theorem StoresBytes.memReadHalf_word (h : aligned4 a = true) (hb : backed a) {k : Nat} (hk : k + 1 < 4) :
    memReadHalf (a + BitVec.ofNat 32 k) t = .ok (w.extractLsb' (8 * k) 16) t := by
  have lo := backed_add_of_aligned4 h hb (k := k) (by omega)
  have hi := backed_add_of_aligned4 h hb hk
  rw [BitVec.ofNat_add, ← BitVec.add_assoc] at hi
  rw [memReadHalf_backed lo hi, stored.halfAt_word hk]

end StoredWord

/-- Settles O26: the word write stores the word's four bytes in ascending order, and every narrower or equal access, the
fetch among them, reads a run of those bytes. -/
theorem wordsAreLittleEndian : Obligations.WordsAreLittleEndian := by
  intro a w s h hd
  have hb : backed a := .inr hd
  obtain ⟨t, written, stored⟩ := memWriteWord_dram_storesBytes h hd w s
  have byte {k : Nat} (hk : k < 4) := stored.memReadByte_word h hb hk
  have half {k : Nat} (hk : k + 1 < 4) := stored.memReadHalf_word h hb hk
  have byte0 := byte (k := 0) (by omega)
  have half0 := half (k := 0) (by omega)
  rw [BitVec.add_zero] at byte0 half0
  refine ⟨t, written, byte0, byte (k := 1) (by omega), byte (k := 2) (by omega), byte (k := 3) (by omega), half0,
    half (k := 2) (by omega), ?_, ?_⟩
  · rw [memReadWord_backed h hb, stored.wordAt_word]
  · rw [fetch_backed h hb, stored.wordAt_word]

end Sys2Proof.Machine
end

section
/-! What sets the privilege level (R346): reset, trap entry and MRET. -/

namespace Sys2Proof.Machine

theorem Priv.eq_two_of_ofBits_eq_none {b : BitVec 2} (h : Priv.ofBits b = none) : b = 2#2 := by
  revert b
  decide

theorem exec_mret (s : State) : exec .mret s = complete s (returnFromException s) := rfl

/-- An MRET that completes in Machine mode enters the level that MPP names (R312). -/
theorem exec_mret_priv {s t : State} (h : exec .mret s = .next t) (hm : s.priv = .machine) :
    t.priv.bits = getMpp (s.csrAt csrMstatus) := by
  rw [exec_mret] at h
  cases hp : Priv.ofBits (getMpp (s.csrAt csrMstatus)) with
  | none =>
    rw [returnFromException_reserved hm (Priv.eq_two_of_ofBits_eq_none hp)] at h
    cases h
  | some p =>
    have names := Priv.bits_of_ofBits hp
    rw [returnFromException_machine hm names] at h
    cases h
    simp [names]

/-- An instruction other than MRET keeps the level, unless it traps. -/
theorem exec_priv_or_traps {i : Instr} (hi : i ≠ .mret) {s t : State} (h : exec i s = .next t) :
    t.priv = s.priv ∨ ∃ e u, t = takeException e s.pc u := by
  obtain ⟨u, changed, rfl | ⟨e, rfl⟩⟩ := exec_next h
  · exact .inl ((State.retire_priv u).trans (changed.priv hi))
  · exact .inr ⟨e, u, rfl⟩

/-- A step keeps the level, or enters a trap, or runs an MRET. -/
theorem step_priv_cases {s t : State} (h : step s = .next t) :
    t.priv = s.priv ∨ (∃ e u, t = takeException e s.pc u) ∨ ∃ w u, fetch s.pc s = .ok w u ∧ decodeWord w = .ok .mret := by
  obtain ⟨e, u, -, trapped⟩ | ⟨w, i, u, fetched, seen, decoded, ran⟩ := step_cases s
  · cases trapped.symm.trans h
    exact .inr (.inl ⟨e, u, rfl⟩)
  · by_cases hi : i = .mret
    · exact .inr (.inr ⟨w, u, fetched, hi ▸ decoded⟩)
    · obtain ⟨-, pc, priv, -⟩ := seen.fields
      have kept := exec_priv_or_traps hi (ran.symm.trans h)
      rw [pc, priv] at kept
      exact kept.imp_right .inl

/-- Settles O50: reset and trap entry by their own equations, MRET by `exec_mret_priv`, every step by
`step_priv_cases`. -/
theorem privilegeChanges : Obligations.PrivilegeChanges :=
  ⟨rfl, fun e pc0 s => takeException_priv s e pc0, fun _ _ => exec_mret_priv, fun _ _ => step_priv_cases⟩

end Sys2Proof.Machine
end

section
/-! The decoder against the encoder and the opcode table (R135 to R143): each group's test, what it accepts, and what the
table's rows cover. -/

namespace Sys2Proof

/-! ## Which group an opcode selects (R136) -/

theorem decodeWord_branch {w : Word} (h : fOpcode w = 0x63#7) : decodeWord w = decodeBranch w := by simp [decodeWord, h]
theorem decodeWord_load {w : Word} (h : fOpcode w = 0x03#7) : decodeWord w = decodeLoad w := by simp [decodeWord, h]
theorem decodeWord_store {w : Word} (h : fOpcode w = 0x23#7) : decodeWord w = decodeStore w := by simp [decodeWord, h]
theorem decodeWord_opImm {w : Word} (h : fOpcode w = 0x13#7) : decodeWord w = decodeOpImm w := by simp [decodeWord, h]
theorem decodeWord_op {w : Word} (h : fOpcode w = 0x33#7) : decodeWord w = decodeOp w := by simp [decodeWord, h]
theorem decodeWord_system {w : Word} (h : fOpcode w = 0x73#7) : decodeWord w = decodeSystem w := by simp [decodeWord, h]
theorem decodeWord_amo {w : Word} (h : fOpcode w = 0x2F#7) : decodeWord w = decodeAmo w := by simp [decodeWord, h]

/-! ## Decoding an encoded word -/

theorem decodeWord_encode {i : Instr} (hw : i.wellFormed = true) : decodeWord (encode i) = .ok i := by
  cases i with
  | lui rd imm | auipc rd imm => simp [encode, decodeWord]
  | jal rd imm => simp [encode, decodeWord, fImmJ_packJ_of_even hw]
  | jalr rd rs1 imm => simp [encode, decodeWord]
  | beq rs1 rs2 imm | bne rs1 rs2 imm | blt rs1 rs2 imm | bge rs1 rs2 imm | bltu rs1 rs2 imm | bgeu rs1 rs2 imm =>
    simp [encode, decodeWord_branch, decodeBranch, fImmB_packB_of_even hw]
  | lb rd rs1 imm | lh rd rs1 imm | lw rd rs1 imm | lbu rd rs1 imm | lhu rd rs1 imm =>
    simp [encode, decodeWord_load, decodeLoad]
  | sb rs1 rs2 imm | sh rs1 rs2 imm | sw rs1 rs2 imm => simp [encode, decodeWord_store, decodeStore]
  | addi rd rs1 imm | slti rd rs1 imm | sltiu rd rs1 imm | xori rd rs1 imm | ori rd rs1 imm | andi rd rs1 imm
  | slli rd rs1 shamt | srli rd rs1 shamt | srai rd rs1 shamt => simp [encode, decodeWord_opImm, decodeOpImm]
  | add rd rs1 rs2 | sll rd rs1 rs2 | slt rd rs1 rs2 | sltu rd rs1 rs2 | xor rd rs1 rs2 | srl rd rs1 rs2 | or rd rs1 rs2
  | and rd rs1 rs2 => simp [encode, decodeWord_op, decodeOp, decodeOpBase]
  | sub rd rs1 rs2 | sra rd rs1 rs2 => simp [encode, decodeWord_op, decodeOp, decodeOpAlt]
  | mul rd rs1 rs2 | mulh rd rs1 rs2 | mulhsu rd rs1 rs2 | mulhu rd rs1 rs2 | div rd rs1 rs2 | divu rd rs1 rs2
  | rem rd rs1 rs2 | remu rd rs1 rs2 => simp [encode, decodeWord_op, decodeOp, decodeOpMul]
  | fence rd rs1 fm pred succ => simp [encode, decodeWord]
  | ecall | ebreak | sret | mret => simp [encode, decodeWord_system, decodeSystem, decodeSystemZero]
  | csrrw rd rs1 csr | csrrs rd rs1 csr | csrrc rd rs1 csr => simp [encode, decodeWord_system, decodeSystem]
  | csrrwi rd uimm csr | csrrsi rd uimm csr | csrrci rd uimm csr => simp [encode, decodeWord_system, decodeSystem]
  | lrW rd rs1 rs2 aq rl | scW rd rs1 rs2 aq rl | amoswapW rd rs1 rs2 aq rl | amoaddW rd rs1 rs2 aq rl
  | amoxorW rd rs1 rs2 aq rl | amoandW rd rs1 rs2 aq rl | amoorW rd rs1 rs2 aq rl | amominW rd rs1 rs2 aq rl
  | amomaxW rd rs1 rs2 aq rl | amominuW rd rs1 rs2 aq rl | amomaxuW rd rs1 rs2 aq rl =>
    simp [encode, decodeWord_amo, decodeAmo]

/-- Settles O1: the decoder on a word's bytes is `decodeWord`, which gives every encoded instruction back. -/
theorem decodeInvertsEncode : Obligations.DecodeInvertsEncode := by
  intro i rest hw
  rw [decode_bytesOfWord, decodeWord_encode hw]

/-! ## Encoding a decoded word -/

/-- A decoder's test that succeeds does so on one of its two sides. -/
theorem of_ite_ok {c P : Prop} [Decidable c] {a b : Except Reject Instr} {i : Instr} (h : (if c then a else b) = .ok i)
    (no : ¬c → b = .ok i → P) (yes : c → a = .ok i → P) : P := by
  split at h
  · exact yes ‹_› h
  · exact no ‹_› h

/-- The instruction has an encoding, and the word is it. -/
def Encodes (i : Instr) (w : Word) : Prop := i.wellFormed = true ∧ encode i = w

section Groups
variable {w : Word} {i : Instr}

theorem decodeBranch_encodes (hop : fOpcode w = 0x63#7) (h : decodeBranch w = .ok i) : Encodes i w := by
  have packed := packB_fields hop
  unfold decodeBranch at h
  split_ifs at h with f3 f3 f3 f3 f3 f3 <;> cases h <;>
    exact ⟨evenOffset_fImmB w, by rw [f3] at packed; exact packed⟩

theorem decodeLoad_encodes (hop : fOpcode w = 0x03#7) (h : decodeLoad w = .ok i) : Encodes i w := by
  have packed := packI_fields w
  unfold decodeLoad at h
  split_ifs at h with f3 f3 f3 f3 f3 <;> cases h <;> exact ⟨rfl, by rw [f3, hop] at packed; exact packed⟩

theorem decodeStore_encodes (hop : fOpcode w = 0x23#7) (h : decodeStore w = .ok i) : Encodes i w := by
  have packed := packS_fields hop
  unfold decodeStore at h
  split_ifs at h with f3 f3 f3 <;> cases h <;> exact ⟨rfl, by rw [f3] at packed; exact packed⟩

/-- The value of funct3 that the last branch of OP-IMM's test stands for. -/
theorem funct3_eq_five {f : BitVec 3} (h0 : f ≠ 0b000#3) (h2 : f ≠ 0b010#3) (h3 : f ≠ 0b011#3) (h4 : f ≠ 0b100#3)
    (h6 : f ≠ 0b110#3) (h7 : f ≠ 0b111#3) (h1 : f ≠ 0b001#3) : f = 0b101#3 := by bv_omega

/-- The value of funct3 that the last branch of OP's tests stands for. -/
theorem funct3_eq_seven {f : BitVec 3} (h0 : f ≠ 0b000#3) (h1 : f ≠ 0b001#3) (h2 : f ≠ 0b010#3) (h3 : f ≠ 0b011#3)
    (h4 : f ≠ 0b100#3) (h5 : f ≠ 0b101#3) (h6 : f ≠ 0b110#3) : f = 0b111#3 := by bv_omega

theorem decodeOpImm_encodes (hop : fOpcode w = 0x13#7) (h : decodeOpImm w = .ok i) : Encodes i w := by
  have packed := packI_fields w
  have packedShift := pack_fields w
  have last := funct3_eq_five (f := fFunct3 w)
  unfold decodeOpImm at h
  split_ifs at h <;> cases h <;> refine ⟨rfl, ?_⟩
  all_goals simp_all [encode]

theorem decodeOpBase_encodes (hop : fOpcode w = 0x33#7) (h7 : fFunct7 w = 0x00#7) (h : decodeOpBase w = .ok i) :
    Encodes i w := by
  have packed := pack_fields w
  have last := funct3_eq_seven (f := fFunct3 w)
  unfold decodeOpBase at h
  split_ifs at h <;> cases h <;> refine ⟨rfl, ?_⟩
  all_goals simp_all [encode]

theorem decodeOpAlt_encodes (hop : fOpcode w = 0x33#7) (h7 : fFunct7 w = 0x20#7) (h : decodeOpAlt w = .ok i) :
    Encodes i w := by
  have packed := pack_fields w
  unfold decodeOpAlt at h
  split_ifs at h <;> cases h <;> refine ⟨rfl, ?_⟩
  all_goals simp_all [encode]

theorem decodeOpMul_encodes (hop : fOpcode w = 0x33#7) (h7 : fFunct7 w = 0x01#7) (h : decodeOpMul w = .ok i) :
    Encodes i w := by
  have packed := pack_fields w
  have last := funct3_eq_seven (f := fFunct3 w)
  unfold decodeOpMul at h
  split_ifs at h <;> cases h <;> refine ⟨rfl, ?_⟩
  all_goals simp_all [encode]

theorem decodeOp_encodes (hop : fOpcode w = 0x33#7) (h : decodeOp w = .ok i) : Encodes i w := by
  unfold decodeOp at h
  split_ifs at h with h7 h7 h7
  · exact decodeOpBase_encodes hop h7 h
  · exact decodeOpAlt_encodes hop h7 h
  · exact decodeOpMul_encodes hop h7 h

theorem decodeSystem_encodes (hop : fOpcode w = 0x73#7) (h : decodeSystem w = .ok i) : Encodes i w := by
  have packed := packI_csr_fields w
  unfold decodeSystem decodeSystemZero at h
  split_ifs at h <;> cases h <;> refine ⟨rfl, ?_⟩
  all_goals simp_all [encode]

theorem decodeAmo_encodes (hop : fOpcode w = 0x2F#7) (h : decodeAmo w = .ok i) : Encodes i w := by
  refine of_ite_ok h (fun f3 h => ?_) fun _ h => by cases h
  have packed := packAmo_fields hop (not_not.mp f3)
  iterate 11 refine of_ite_ok h (fun _ h => ?_) fun f5 h => ?_
  · cases h
  all_goals
    cases h
    rw [f5] at packed
    exact ⟨rfl, packed⟩

end Groups

/-- What the decoder accepts is well-formed and encoded by the word, group by group. -/
theorem decodeWord_encodes {w : Word} {i : Instr} (h : decodeWord w = .ok i) : Encodes i w := by
  refine of_ite_ok h (fun _ h => ?_) fun op h => ?lui
  refine of_ite_ok h (fun _ h => ?_) fun op h => ?auipc
  refine of_ite_ok h (fun _ h => ?_) fun op h => by cases h; exact ⟨evenOffset_fImmJ w, packJ_fields op⟩
  refine of_ite_ok h (fun _ h => ?_) fun op h => of_ite_ok h (fun _ h => by cases h) fun f3 h => ?jalr
  refine of_ite_ok h (fun _ h => ?_) decodeBranch_encodes
  refine of_ite_ok h (fun _ h => ?_) decodeLoad_encodes
  refine of_ite_ok h (fun _ h => ?_) decodeStore_encodes
  refine of_ite_ok h (fun _ h => ?_) decodeOpImm_encodes
  refine of_ite_ok h (fun _ h => ?_) decodeOp_encodes
  refine of_ite_ok h (fun _ h => ?_) fun op h => of_ite_ok h (fun _ h => by cases h) fun f3 h => ?fence
  refine of_ite_ok h (fun _ h => ?_) decodeSystem_encodes
  refine of_ite_ok h (fun _ h => by cases h) decodeAmo_encodes
  case lui => cases h; exact ⟨rfl, by have packed := packU_fields w; rwa [op] at packed⟩
  case auipc => cases h; exact ⟨rfl, by have packed := packU_fields w; rwa [op] at packed⟩
  case jalr => cases h; exact ⟨rfl, by have packed := packI_fields w; rwa [op, f3] at packed⟩
  case fence => cases h; exact ⟨rfl, packFence_fields op f3⟩

theorem decodeWord_of_decode {w : Word} {rest rest' : List Byte} {i : Instr}
    (h : decode (bytesOfWord w ++ rest) = .ok (i, rest')) : decodeWord w = .ok i ∧ rest' = rest := by
  rw [decode_bytesOfWord] at h
  cases hd : decodeWord w with
  | ok j => rw [hd] at h; cases h; exact ⟨rfl, rfl⟩
  | error e => rw [hd] at h; cases h

/-- What the decoder accepts begins with the four bytes of a word that decodes. -/
theorem decode_ok {bytes rest : List Byte} {i : Instr} (h : decode bytes = .ok (i, rest)) :
    ∃ w, decodeWord w = .ok i ∧ bytes = bytesOfWord w ++ rest := by
  match bytes with
  | [] | [_] | [_, _] | [_, _, _] => cases h
  | b0 :: b1 :: b2 :: b3 :: tail =>
    have split : b0 :: b1 :: b2 :: b3 :: tail = bytesOfWord (wordOfBytes b0 b1 b2 b3) ++ tail := by
      rw [bytesOfWord_wordOfBytes]; rfl
    rw [split] at h
    obtain ⟨decoded, rfl⟩ := decodeWord_of_decode h
    exact ⟨_, decoded, split⟩

/-- Settles O2: the bytes read are a word's, and a word that decodes is the encoding of what it decodes to. -/
theorem encodeInvertsDecode : Obligations.EncodeInvertsDecode := by
  intro bytes rest i h
  obtain ⟨w, hd, rfl⟩ := decode_ok h
  obtain ⟨hw, rfl⟩ := decodeWord_encodes hd
  exact ⟨hw, rfl⟩

/-! ## The opcode table -/

/-- What a row that covers a word says of each field of the word. -/
theorem OpcodeRow.fields_of_covers {r : OpcodeRow} {w : Word} (h : r.covers w = true) :
    fOpcode w &&& r.mask.extractLsb' 0 7 = r.pattern.extractLsb' 0 7 ∧
    fFunct3 w &&& r.mask.extractLsb' 12 3 = r.pattern.extractLsb' 12 3 ∧
    fFunct7 w &&& r.mask.extractLsb' 25 7 = r.pattern.extractLsb' 25 7 ∧
    fFunct5 w &&& r.mask.extractLsb' 27 5 = r.pattern.extractLsb' 27 5 ∧
    fRs1 w &&& r.mask.extractLsb' 15 5 = r.pattern.extractLsb' 15 5 ∧
    fRd w &&& r.mask.extractLsb' 7 5 = r.pattern.extractLsb' 7 5 ∧
    fCsr w &&& r.mask.extractLsb' 20 12 = r.pattern.extractLsb' 20 12 := by
  have covered : w &&& r.mask = r.pattern := eq_of_beq h
  have field (start len : Nat) :
      w.extractLsb' start len &&& r.mask.extractLsb' start len = r.pattern.extractLsb' start len := by
    rw [← covered, BitVec.extractLsb'_and]
  exact ⟨field 0 7, field 12 3, field 25 7, field 27 5, field 15 5, field 7 5, field 20 12⟩

/-! A mask keeps a field whole. -/

theorem and_ones3 (x : BitVec 3) : x &&& 0x7#3 = x := BitVec.and_allOnes
theorem and_ones5 (x : BitVec 5) : x &&& 0x1F#5 = x := BitVec.and_allOnes
theorem and_ones7 (x : BitVec 7) : x &&& 0x7F#7 = x := BitVec.and_allOnes
theorem and_ones12 (x : BitVec 12) : x &&& 0xFFF#12 = x := BitVec.and_allOnes

/-- The word decodes, to an instruction of that mnemonic. -/
def DecodesAs (name : String) (w : Word) : Prop := ∃ i, decodeWord w = .ok i ∧ i.mnemonic = name

/-- A row's fixed fields decide every test on the decoder's way to the row's instruction. -/
theorem decodesAs_of_covers {w : Word} : ∀ r ∈ opcodeTable, r.covers w = true → DecodesAs r.mnemonic w := by
  simp only [opcodeTable, List.cons_append, List.nil_append, List.forall_mem_cons, List.not_mem_nil, false_implies,
    implies_true, and_true]
  and_intros
  all_goals
    intro h
    have fields := OpcodeRow.fields_of_covers h
    simp [row, and_ones3, and_ones5, and_ones7, and_ones12] at fields
    exact ⟨_, by simp [decodeWord, decodeBranch, decodeLoad, decodeStore, decodeOpImm, decodeOp, decodeOpBase,
      decodeOpAlt, decodeOpMul, decodeSystem, decodeSystemZero, decodeAmo, fields]; rfl, rfl⟩

open Laws.EncodedFields in
theorem encode_covered (i : Instr) : ∃ r ∈ opcodeTable, r.mnemonic = i.mnemonic ∧ r.covers (encode i) = true := by
  cases i
  exacts [lui .., auipc .., jal .., jalr .., beq .., bne .., blt .., bge .., bltu .., bgeu .., lb .., lh .., lw .., lbu ..,
    lhu .., sb .., sh .., sw .., addi .., slti .., sltiu .., xori .., ori .., andi .., slli .., srli .., srai .., add ..,
    sub .., sll .., slt .., sltu .., xor .., srl .., sra .., or .., and .., fence .., ecall, ebreak, sret, mret, csrrw ..,
    csrrs .., csrrc .., csrrwi .., csrrsi .., csrrci .., mul .., mulh .., mulhsu .., mulhu .., div .., divu .., rem ..,
    remu .., lrW .., scW .., amoswapW .., amoaddW .., amoxorW .., amoandW .., amoorW .., amominW .., amomaxW ..,
    amominuW .., amomaxuW ..]

theorem covered_of_decodes {w : Word} {i : Instr} (h : decodeWord w = .ok i) :
    ∃ r ∈ opcodeTable, r.mnemonic = i.mnemonic ∧ r.covers w = true := by
  obtain ⟨-, rfl⟩ := decodeWord_encodes h
  exact encode_covered i

/-- Settles O3: a word that decodes is its instruction's encoding, which the instruction's row covers, and a covered word
has its row's fields. -/
theorem decoderAgreesWithOpcodeTable : Obligations.DecoderAgreesWithOpcodeTable :=
  fun _ => ⟨fun _ => covered_of_decodes, decodesAs_of_covers⟩

/-- Settles O4: the decoder run on each word. -/
theorem sampleWordsDecode : Obligations.SampleWordsDecode := by
  unfold Obligations.SampleWordsDecode
  decide

/-! ## Words that do not decode -/

/-- The opcodes of R136. -/
def opcodes : List (BitVec 7) :=
  [0x37#7, 0x17#7, 0x6F#7, 0x67#7, 0x63#7, 0x03#7, 0x23#7, 0x13#7, 0x33#7, 0x0F#7, 0x73#7, 0x2F#7]

theorem fOpcode_mem_of_decodes {w : Word} {i : Instr} (h : decodeWord w = .ok i) : fOpcode w ∈ opcodes := by
  obtain ⟨-, rfl⟩ := decodeWord_encodes h
  cases i <;> simp [encode, opcodes]

theorem lowBits_of_decodes {w : Word} {i : Instr} (h : decodeWord w = .ok i) : w.extractLsb' 0 2 = 0b11#2 := by
  have table : ∀ op ∈ opcodes, op.extractLsb' 0 2 = 0b11#2 := by decide
  have low := table _ (fOpcode_mem_of_decodes h)
  rwa [fOpcode, BitVec.extractLsb'_extractLsb'_of_le (by decide)] at low

/-- A word outside the table, or whose low bits or opcode no instruction has, is refused. -/
theorem undecodable_of {w : Word}
    (h : (∃ why, decodeWord w = .error why) ∨ (∀ r ∈ opcodeTable, r.covers w = false) ∨ w.extractLsb' 0 2 ≠ 0b11#2 ∨
      fOpcode w ∉ opcodes) :
    ∃ why, decodeWord w = .error why := by
  cases hd : decodeWord w with
  | error why => exact ⟨why, rfl⟩
  | ok i =>
    obtain ⟨r, hr, -, covered⟩ := covered_of_decodes hd
    rcases h with ⟨why, refused⟩ | uncovered | low | op
    · rw [hd] at refused; cases refused
    · rw [uncovered r hr] at covered; cases covered
    · exact absurd (lowBits_of_decodes hd) low
    · exact absurd (fOpcode_mem_of_decodes hd) op

namespace Machine

/-- Settles O8: each word named is one the decoder refuses, and the step of a fetched word that is refused is the trap. -/
theorem undecodableWordTraps : Obligations.UndecodableWordTraps := by
  intro s aligned hb w h
  suffices ∃ why, decodeWord w = .error why from
    let ⟨_, refused⟩ := this
    ⟨step_of_undecoded (fetch_backed aligned hb s) refused, rfl⟩
  have named : ∀ op ∈ [0x07#7, 0x27#7, 0x43#7, 0x47#7, 0x4B#7, 0x4F#7, 0x53#7] ++ [0x0B#7, 0x2B#7, 0x5B#7, 0x7B#7] ++
      [0x1B#7, 0x3B#7] ++ [0x00#7, 0x7F#7], op ∉ opcodes := by decide
  refine undecodable_of ?_
  rcases h with refused | uncovered | low | float | custom | wide | zeros | ones
  · exact .inl refused
  · exact .inr (.inl uncovered)
  · exact .inr (.inr (.inl low))
  all_goals refine .inr (.inr (.inr (named _ ?_)))
  · exact List.mem_append_left _ (List.mem_append_left _ (List.mem_append_left _ float))
  · exact List.mem_append_left _ (List.mem_append_left _ (List.mem_append_right _ custom))
  · exact List.mem_append_left _ (List.mem_append_right _ wide)
  · rw [zeros]; decide
  · rw [ones]; decide

end Machine
end Sys2Proof
end

section
/-! Trap entry, the return from it, and the instructions that cause either (R310 to R312, R330 to R335). -/

namespace Sys2Proof.Machine

/-! ## The handler's address -/

theorem aligned4_eq_true_iff (a : Word) : aligned4 a = true ↔ a.extractLsb' 0 2 = 0#2 := beq_iff_eq

theorem aligned4_add {a b : Word} (ha : aligned4 a = true) (hb : aligned4 b = true) : aligned4 (a + b) = true := by
  rw [aligned4_iff] at *
  rw [BitVec.toNat_add]
  omega

theorem aligned4_four_mul (a : Word) : aligned4 (4#32 * a) = true := by
  rw [aligned4_iff, BitVec.toNat_mul, show (4#32).toNat = 4 from rfl]
  omega

theorem clearLow2_of_aligned4 {a : Word} (h : aligned4 a = true) : clearLow2 a = a := by
  rw [aligned4_eq_true_iff] at h
  unfold clearLow2
  apply BitVec.eq_of_getLsbD_eq
  intro i hi
  have low (k : Nat) (hk : k < 2) : a.getLsbD k = false := by
    have bit := congrArg (·.getLsbD k) h
    simpa [hk] using bit
  rw [BitVec.getLsbD_and]
  by_cases hi2 : i < 2
  · rw [low i hi2, Bool.false_and]
  · interval_cases i <;> simp at hi2 ⊢

theorem trapTarget_aligned4 (mtvec : Word) (e : Exception) : aligned4 (trapTarget mtvec e) = true := by
  unfold trapTarget
  split
  · exact (aligned4_eq_true_iff mtvec).mpr ‹_›
  · exact aligned4_add (aligned4_clearLow2 mtvec) (aligned4_four_mul e.word)

theorem takeException_pc_aligned4 (e : Exception) (pc0 : Word) (s : State) :
    aligned4 (takeException e pc0 s).pc = true := by
  rw [takeException_pc]
  exact trapTarget_aligned4 _ e

/-- Settles O45: the base in direct mode is a multiple of 4 as it stands, the vectored one by the cleared bits. -/
theorem handlerAddressAligned : Obligations.HandlerAddressAligned :=
  fun e pc0 s => (aligned4_eq_true_iff _).mp (takeException_pc_aligned4 e pc0 s)

/-! ## Trap entry read from outside -/

theorem Exception.four_mul_word (e : Exception) : 4#32 * e.word = BitVec.ofNat 32 (4 * e.code) := by
  rw [Exception.word, BitVec.ofNat_mul]

section
variable (e : Exception) (pc0 : Word) (s : State)

theorem takeException_mstatus :
    (takeException e pc0 s).csrAt csrMstatus = mstatusOnTrap (s.csrAt csrMstatus) s.priv := by
  rw [takeException_csrAt]; rfl

theorem takeException_mepc : (takeException e pc0 s).csrAt csrMepc = clearLow2 pc0 := by
  rw [takeException_csrAt]; rfl

theorem takeException_csrAt_other {i : CsrIdx} (h : i ∉ [csrMstatus, csrMepc, csrMcause, csrMtval]) :
    (takeException e pc0 s).csrAt i = s.csrAt i := by
  simp only [List.mem_cons, List.not_mem_nil, or_false, not_or] at h
  obtain ⟨h1, h2, h3, h4⟩ := h
  rw [takeException_csrAt, if_neg h4, if_neg h3, if_neg h2, if_neg h1]

theorem takeException_trapEntered : TrapEntered e pc0 s (takeException e pc0 s) where
  mpp := by rw [takeException_mstatus]; exact mstatusOnTrap_mpp _ _
  mpie := by rw [takeException_mstatus]; exact mstatusOnTrap_mpie _ _
  mie := by rw [takeException_mstatus]; exact mstatusOnTrap_mie _ _
  others f h h' h'' := by rw [takeException_mstatus]; exact mstatusOnTrap_other h h' h'' _ _
  mepc := takeException_mepc e pc0 s
  mcause := by rw [takeException_csrAt]; rfl
  mtval := by rw [takeException_csrAt]; rfl
  priv := takeException_priv s e pc0
  pc := by rw [takeException_pc, trapTarget, e.four_mul_word]
  csrs _ := takeException_csrAt_other e pc0 s
  regs := takeException_readReg s e pc0
  flag := takeException_justLoaded s e pc0
  resv := takeException_reservation s e pc0
  mem _ := by rw [takeException_mem]
  device := ⟨takeException_deviceEvents s e pc0, takeException_deviceDraws s e pc0⟩
  params := takeException_params s e pc0

end

/-- Settles O44: the four words that trap entry writes, field by field, the rest by its frame, and the codes one by
one. -/
theorem trapEntry : Obligations.TrapEntry := by
  refine ⟨takeException_trapEntered, fun w => ?_⟩
  simp [Exception.code]

/-! ## ECALL, EBREAK -/

theorem exec_ecall_traps (s : State) : Traps (exec .ecall s) s (environmentCall s.priv) := rfl

theorem exec_ebreak_traps (s : State) : Traps (exec .ebreak s) s .breakpoint := rfl

/-- Settles O46: ECALL raises the call of the level it is at, EBREAK its own exception. -/
theorem environmentTraps : Obligations.EnvironmentTraps := by
  intro s
  have call (p : Priv) (h : s.priv = p) : Traps (exec .ecall s) s (environmentCall p) := h ▸ exec_ecall_traps s
  exact ⟨by decide, by decide, call .user, call .supervisor, call .machine, exec_ebreak_traps s, rfl, rfl, rfl, rfl⟩

/-! ## MRET -/

/-- The state of an MRET to the level `p`, before it retires (R312). -/
def mretState (s : State) (p : Priv) : State :=
  ((s.csrWriteRaw csrMstatus (mstatusOnMret (s.csrAt csrMstatus))).setPriv p).jumpTo (s.csrAt csrMepc)

theorem exec_mret_machine {s : State} (h : s.priv = .machine) {p : Priv} (hp : getMpp (s.csrAt csrMstatus) = p.bits) :
    exec .mret s = .next (mretState s p).retire := by
  rw [exec_mret, returnFromException_machine h hp]; rfl

theorem mretState_csrAt (s : State) (p : Priv) (j : CsrIdx) :
    (mretState s p).csrAt j = if j = csrMstatus then mstatusOnMret (s.csrAt csrMstatus) else s.csrAt j := by
  simp only [mretState, State.jumpTo_csrAt, State.setPriv_csrAt, State.csrAt_csrWriteRaw,
    csrWriteTarget_of_ne (by decide : csrMstatus ≠ csrSstatus),
    State.csrWriteValue_plain _ (by decide : csrMstatus ≠ csrSstatus) (by decide)]

theorem mretState_retire_mstatus (s : State) (p : Priv) :
    (mretState s p).retire.csrAt csrMstatus = mstatusOnMret (s.csrAt csrMstatus) := by
  rw [State.csrAt_retire _ (by decide) (by decide), mretState_csrAt, if_pos rfl]

theorem mretState_retire_csrAt (s : State) (p : Priv) {j : CsrIdx} (h : j ∉ [csrMstatus, csrMinstret, csrMinstreth]) :
    (mretState s p).retire.csrAt j = s.csrAt j := by
  simp only [List.mem_cons, List.not_mem_nil, or_false, not_or] at h
  obtain ⟨h1, h2, h3⟩ := h
  rw [State.csrAt_retire _ h2 h3, mretState_csrAt, if_neg h1]

theorem mretState_retire_pc (s : State) (p : Priv) : (mretState s p).retire.pc = s.csrAt csrMepc := by
  rw [State.retire_pc, mretState, State.jumpTo_pc, BitVec.sub_add_cancel]

/-- Retiring a state with the retire counter and the flag of `s` steps the counter of `s` (R58). -/
theorem counterStepped_of_retireCount {s u : State} (hc : u.retireCount = s.retireCount)
    (hj : u.justLoaded = s.justLoaded) : CounterStepped s u.retire := by
  have stepped := u.counterStepped_retire
  unfold CounterStepped at *
  rwa [hc, hj] at stepped

theorem mretState_counterStepped (s : State) (p : Priv) : CounterStepped s (mretState s p).retire := by
  refine counterStepped_of_retireCount ?_ ?_
  · unfold State.retireCount
    rw [mretState_csrAt, mretState_csrAt, if_neg (by decide), if_neg (by decide)]
  · simp [mretState, csrMstatus, csrMinstret, csrMinstreth]

theorem Priv.bits_eq_three_iff (p : Priv) : p.bits = 3#2 ↔ p = .machine := by cases p <;> decide

/-- Settles O47: MRET's state read field by field, the rest by its frame. -/
theorem mretReturns : Obligations.MretReturns := by
  intro s p h hp
  have fields {f : MstatusField} (hf : f ≠ .mprv) :
      f.get ((mretState s p).retire.csrAt csrMstatus) = f.get (mretFields (s.csrAt csrMstatus)) := by
    rw [mretState_retire_mstatus, mstatusOnMret_get hf]
  refine ⟨_, exec_mret_machine h hp, State.retire_priv _, mretState_retire_pc s p,
    (fields (f := .mie) (by decide)).trans (mretFields_mie _), (fields (f := .mpie) (by decide)).trans (mretFields_mpie _),
    (fields (f := .mpp) (by decide)).trans (mretFields_mpp _), ?_, fun f hf => ?_,
    fun j => mretState_retire_csrAt s p, mretState_counterStepped s p, fun r => by simp [mretState],
    by simp [mretState], fun b => by simp [mretState], by simp [SameDevice, mretState], by simp [mretState]⟩
  · rw [mretState_retire_mstatus, mstatusOnMret_mprv, hp]
    simp only [Priv.bits_eq_three_iff]
  · simp only [List.mem_cons, List.not_mem_nil, or_false, not_or] at hf
    obtain ⟨h1, h2, h3, h4⟩ := hf
    exact (fields h4).trans (mretFields_other h1 h2 h3 _)

/-- Settles O48: `MstatusRef` fails below Machine, and MPP = 2 names no level. -/
theorem mretTrapsOrIsRefused : Obligations.MretTrapsOrIsRefused := by
  intro s
  refine ⟨fun h => ?_, fun h hp => ?_⟩
  · rw [exec_mret, returnFromException_below h]; rfl
  · rw [exec_mret, returnFromException_reserved h hp]; rfl

/-- Settles O49: trap entry saves what MRET then restores: the level in MPP, MIE in MPIE, the pc in `mepc`. -/
theorem trapThenMretRestores : Obligations.TrapThenMretRestores := by
  intro e s aligned
  have entered := takeException_trapEntered e s.pc s
  obtain ⟨t, ran, priv, pc, mie, -, -, -, -, -, -, regs, resv, mem, -, -⟩ := mretReturns _ s.priv entered.priv entered.mpp
  have saved : clearLow2 s.pc = s.pc := clearLow2_of_aligned4 ((aligned4_eq_true_iff _).mpr aligned)
  exact ⟨t, ran, priv, by rw [pc, entered.mepc, saved], mie.trans entered.mpie, fun r => (regs r).trans (entered.regs r),
    fun b => (mem b).trans (entered.mem b), resv.trans entered.resv⟩

end Sys2Proof.Machine
end

section
/-! The invariant of every step, and the frames of every instruction, from `HandlerChange` and `step_cases`. -/

namespace Sys2Proof.Machine

/-! ## The invariant through an instruction's parts -/

theorem State.Inv.of_readChange {s u : State} (inv : s.Inv) (h : ReadChange s u) : u.Inv := by
  obtain ⟨x0, memCanonical, memMapped, csrCanonical, mepc, readOnly, sstatus, pcEven, reservation⟩ := inv
  rw [h]
  exact ⟨x0, memCanonical, memMapped, csrCanonical, mepc, readOnly, sstatus, pcEven, reservation⟩

/-- What a handler leaves meets the invariant, before it retires or traps. -/
theorem State.Inv.of_handlerChange {i : Instr} {s u : State} (inv : s.Inv) (hw : i.wellFormed = true)
    (h : HandlerChange i s u) : u.Inv where
  x0 := h.regs.slot0.trans inv.x0
  memCanonical := h.mem.memWf inv.memCanonical
  memMapped := h.mem.memMapped inv.memMapped
  csrCanonical := h.csr.wf inv.csrCanonical
  mepc := h.csr.mepc inv.mepc
  readOnly j hj := (h.csr.readOnly j hj).trans (inv.readOnly j hj)
  sstatus := h.csr.sstatus.trans inv.sstatus
  pcEven := h.pc hw inv.mepc inv.pcEven
  reservation a ha := (h.mem.resvMade a ha).elim (inv.reservation a) id

theorem ne_of_csrReadOnly {i j : CsrIdx} (hi : csrReadOnly i = true) (hj : csrReadOnly j = false) : i ≠ j := by
  rintro rfl
  exact absurd (hi.symm.trans hj) (by decide)

theorem State.Inv.retire {s : State} (inv : s.Inv) : s.retire.Inv where
  x0 := by simpa using inv.x0
  memCanonical := by simpa using inv.memCanonical
  memMapped := by simpa using inv.memMapped
  csrCanonical := State.csrWf_retire inv.csrCanonical
  mepc := by rw [State.csrAt_retire s (by decide) (by decide)]; exact inv.mepc
  readOnly j hj := (State.csrAt_retire s (ne_of_csrReadOnly hj (by decide)) (ne_of_csrReadOnly hj (by decide))).trans
    (inv.readOnly j hj)
  sstatus := (State.csrAt_retire s (by decide) (by decide)).trans inv.sstatus
  pcEven := by rw [State.retire_pc]; exact even_add inv.pcEven (by decide)
  reservation a ha := inv.reservation a (by simpa using ha)

theorem State.Inv.takeException {s : State} (inv : s.Inv) (e : Exception) (pc0 : Word) : (takeException e pc0 s).Inv where
  x0 := by simpa using inv.x0
  memCanonical := by simpa using inv.memCanonical
  memMapped := by simpa using inv.memMapped
  csrCanonical := csrWf_takeException inv.csrCanonical e pc0
  mepc := by rw [takeException_mepc]; exact aligned4_clearLow2 pc0
  readOnly j hj := by
    have written : ∀ i ∈ [csrMstatus, csrMepc, csrMcause, csrMtval], csrReadOnly i = false := by decide
    rw [takeException_csrAt_other e pc0 s fun hm => absurd (hj.symm.trans (written j hm)) (by decide)]
    exact inv.readOnly j hj
  sstatus := (takeException_csrAt_other e pc0 s (by decide)).trans inv.sstatus
  pcEven := even_of_aligned4 (takeException_pc_aligned4 e pc0 s)
  reservation a ha := inv.reservation a (by simpa using ha)

theorem exec_keeps_inv {i : Instr} {s t : State} (hw : i.wellFormed = true) (inv : s.Inv) (h : exec i s = .next t) :
    t.Inv := by
  obtain ⟨u, changed, rfl | ⟨e, rfl⟩⟩ := exec_next h
  · exact (inv.of_handlerChange hw changed).retire
  · exact (inv.of_handlerChange hw changed).takeException e s.pc

/-- Settles O57: a fetch changes only what the device has seen; what decodes is well-formed, so the handler keeps the
invariant, and so do retiring and trap entry. -/
theorem stepKeepsInvariant : Obligations.StepKeepsInvariant := by
  intro s t inv h
  obtain ⟨e, u, seen, trapped⟩ | ⟨w, i, u, -, seen, decoded, ran⟩ := step_cases s
  · cases trapped.symm.trans h
    exact (inv.of_readChange seen).takeException e s.pc
  · obtain ⟨hw, -⟩ := decodeWord_encodes decoded
    exact exec_keeps_inv hw (inv.of_readChange seen) (ran.symm.trans h)

/-! ## Privilege and CSRs -/

theorem csrTier_le_machine (j : CsrIdx) : csrTier j ≤ Priv.level .machine :=
  Nat.le_of_lt_succ (j.extractLsb' 8 2).isLt

/-- Settles O51: the handler's own change is `CsrChange.tier`; retiring steps the counter alone; a trap enters Machine
mode, which no tier is above. -/
theorem lowerModesCannotChangeHigherCsrs : Obligations.LowerModesCannotChangeHigherCsrs := by
  intro i s t j h samePriv above notLow notHigh
  obtain ⟨u, changed, rfl | ⟨e, rfl⟩⟩ := exec_next h
  · rw [State.csrAt_retire u notLow notHigh]
    exact changed.csr.tier j above
  · rw [takeException_priv] at samePriv
    rw [← samePriv] at above
    exact absurd (csrTier_le_machine j) (Nat.not_le.mpr above)

/-! ## Frames -/

/-- Settles O54: the handler writes no other register, retiring and trap entry none. -/
theorem onlyTheDestinationRegisterChanges : Obligations.OnlyTheDestinationRegisterChanges := by
  intro i s t r h hr
  obtain ⟨u, changed, rfl | ⟨e, rfl⟩⟩ := exec_next h
  · exact (State.retire_readReg u r).trans (changed.regs.regs r hr)
  · exact (takeException_readReg u e s.pc r).trans (changed.regs.regs r hr)

/-- Memory and the reservation after an instruction are those its handler left. -/
theorem exec_memChange {i : Instr} {s t : State} (h : exec i s = .next t) : MemChange i s t := by
  obtain ⟨u, changed, rfl | ⟨e, rfl⟩⟩ := exec_next h
  all_goals
    obtain ⟨same, outside, wf, mapped, kept, lost, made⟩ := changed.mem
    exact ⟨by simpa using same, by simpa using outside, by simpa using wf, by simpa using mapped, by simpa using kept,
      by simpa using lost, by simpa using made⟩

/-- Settles O55: an instruction by `MemChange`, a step by the fetch, which changes no byte, and its instruction. -/
theorem onlyStoresChangeMemory : Obligations.OnlyStoresChangeMemory := by
  refine ⟨fun i s t h hi b => by rw [(exec_memChange h).memSame hi], fun s t b h hb => ?_⟩
  obtain ⟨e, u, seen, trapped⟩ | ⟨w, i, u, -, seen, -, ran⟩ := step_cases s
  · cases trapped.symm.trans h
    obtain ⟨-, -, -, -, -, -, mem, -⟩ := seen.fields
    rw [takeException_mem, mem]
  · obtain ⟨-, -, -, -, -, -, mem, -⟩ := seen.fields
    rw [(exec_memChange (ran.symm.trans h)).memOutside b hb, mem]

/-- SC.W leaves no reservation, whichever way its handler ends (R261). -/
theorem storeConditional_ends_reservation (rd rs1 rs2 : RegIdx) (s : State) :
    (storeConditional rd rs1 rs2 s).Within (fun _ u => u.reservation = none) s := by
  unfold storeConditional
  split
  · cases memWriteWord (s.readReg rs1) (s.readReg rs2) s <;> simp [Result.Within]
  · simp [Result.Within]

theorem exec_scW_reservation {rd rs1 rs2 : RegIdx} {aq rl : Bool} {s t : State}
    (h : exec (.scW rd rs1 rs2 aq rl) s = .next t) : t.reservation = none := by
  have ended := storeConditional_ends_reservation rd rs1 rs2 s
  rcases complete_next h with ⟨u, ok, rfl⟩ | ⟨e, u, raised, rfl⟩
  · rw [ok] at ended
    exact (State.retire_reservation u).trans ended
  · rw [raised] at ended
    exact (takeException_reservation u e s.pc).trans ended

/-- Settles O56: `MemChange` for every instruction, and SC.W's own exits. -/
theorem reservationChanges : Obligations.ReservationChanges := by
  intro i s t h
  refine ⟨(exec_memChange h).resvSame, (exec_memChange h).resvLost, ?_⟩
  rintro rd rs1 rs2 aq rl rfl
  exact exec_scW_reservation h

end Sys2Proof.Machine
end

section
/-! How each handler ends, and that all but the mode-sensitive ones ignore the privilege level (R8, R11 to R13, R314). -/

namespace Sys2Proof.Machine

/-! ## Retire, trap or refusal -/

/-- How an instruction's handler may end: completed with the pc and the counter as retiring needs them, raised with the
registers, CSRs and level untouched, or refused for MRET's one reserved level. -/
def Result.EndsAs (i : Instr) (s : State) : Result Unit → Prop
  | .ok _ u => (transfersControl i = false → u.pc = s.pc) ∧ (CounterStepped s u.retire ∨ CounterWritten i s u.retire)
  | .raise _ u => AccessChange s u
  | .refuse r => i = .mret ∧ s.priv = .machine ∧ getMpp (s.csrAt csrMstatus) = 2#2 ∧ r = .mretReservedMpp

/-- A handler of accesses and register writes: completed with pc, CSRs and flag as they were, or raised by an access. -/
def Result.Accesses (s : State) : Result Unit → Prop
  | .ok _ u => u.pc = s.pc ∧ u.csr = s.csr ∧ u.justLoaded = s.justLoaded
  | .raise _ u => AccessChange s u
  | .refuse _ => False

theorem Result.Accesses.endsAs {s : State} {r : Result Unit} (h : r.Accesses s) (i : Instr) : r.EndsAs i s := by
  cases r with
  | ok v u =>
    obtain ⟨pc, csr, flag⟩ := h
    exact ⟨fun _ => pc, .inl (counterStepped_of_eq csr flag)⟩
  | raise e u => exact h
  | refuse r => exact h.elim

theorem accessChange_refl (s : State) : AccessChange s s := rfl

/-- An access, and then a completion that keeps pc, CSRs and flag. -/
theorem Result.Accesses.bind_ok {α : Type} {s : State} {r : Result α} {f : α → State → State}
    (h : r.Leaves AccessChange s) (hf : ∀ v u, (f v u).pc = u.pc ∧ (f v u).csr = u.csr ∧ (f v u).justLoaded = u.justLoaded) :
    (r.bind fun v u => .ok () (f v u)).Accesses s := by
  cases r with
  | ok v u =>
    obtain ⟨pc, csr, flag⟩ := hf v u
    obtain ⟨-, pc', -, csr', flag', -⟩ := AccessChange.fields h
    exact ⟨pc.trans pc', csr.trans csr', flag.trans flag'⟩
  | raise e u => exact h
  | refuse r => exact h.elim

theorem Result.Leaves.imp {α : Type} {rel rel' : State → State → Prop} {s : State} {r : Result α} (h : r.Leaves rel s)
    (himp : ∀ {a b}, rel a b → rel' a b) : r.Leaves rel' s := by
  cases r with
  | ok v u => exact himp h
  | raise e u => exact himp h
  | refuse r => exact h

theorem writeReg_accesses (rd : RegIdx) (v : Word) (s : State) : (Result.ok () (s.writeReg rd v)).Accesses s :=
  ⟨rfl, rfl, rfl⟩

theorem load_accesses {α : Type} {r : Result α} {s : State} (h : r.Leaves ReadChange s) (rd : RegIdx) (extend : α → Word) :
    (r.bind fun v u => .ok () (u.writeReg rd (extend v))).Accesses s :=
  .bind_ok (h.imp ReadChange.access) fun _ _ => ⟨rfl, rfl, rfl⟩

theorem store_accesses {r : Result Unit} {s : State} (h : r.Leaves WriteChange s) : r.Accesses s := by
  cases r with
  | ok v u =>
    obtain ⟨-, pc, -, csr, flag, -⟩ := WriteChange.fields h
    exact ⟨pc, csr, flag⟩
  | raise e u => exact WriteChange.access h
  | refuse r => exact h.elim

theorem amo_accesses (f : Word → Word → Word) (rd : RegIdx) (a src : Word) (s : State) :
    ((memReadWord a s).bind fun old s1 =>
      (memWriteWord a (f old src) s1).bind fun _ s2 => .ok () (s2.writeReg rd old) : Result Unit).Accesses s := by
  have read := memReadWord_leaves a s
  cases hx : memReadWord a s with
  | ok old u =>
    have both : (memWriteWord a (f old src) u).Leaves AccessChange s := by
      have write := memWriteWord_leaves a (f old src) u
      cases hy : memWriteWord a (f old src) u with
      | ok v t => exact (read.ok hx).access.trans (write.ok hy).access
      | raise e t => exact (read.ok hx).access.trans (write.raise hy).access
      | refuse r => rw [hy] at write; exact write.elim
    exact .bind_ok both fun _ _ => ⟨rfl, rfl, rfl⟩
  | raise e u => exact (read.raise hx).access
  | refuse r => rw [hx] at read; exact read.elim

theorem loadReserved_accesses (rd rs1 : RegIdx) (s : State) : (loadReserved rd rs1 s).Accesses s :=
  .bind_ok ((memReadWord_leaves _ s).imp ReadChange.access) fun _ _ => ⟨rfl, rfl, rfl⟩

theorem storeConditional_accesses (rd rs1 rs2 : RegIdx) (s : State) : (storeConditional rd rs1 rs2 s).Accesses s := by
  have write := memWriteWord_leaves (s.readReg rs1) (s.readReg rs2) s
  unfold storeConditional
  split
  · cases hx : memWriteWord (s.readReg rs1) (s.readReg rs2) s with
    | ok v u =>
      obtain ⟨-, pc, -, csr, flag, -⟩ := (write.ok hx).fields
      exact ⟨pc, csr, flag⟩
    | raise e u =>
      exact (write.raise hx).access.trans (u := u.invalidateReservation) rfl
    | refuse r => rw [hx] at write; exact write.elim
  · exact ⟨rfl, rfl, rfl⟩

/-- A handler that keeps the CSRs and the flag, and sets the pc where the instruction transfers control. -/
theorem transfer_endsAs {i : Instr} (hi : transfersControl i = true) {s u : State} (hc : u.csr = s.csr)
    (hj : u.justLoaded = s.justLoaded) : (Result.ok () u).EndsAs i s :=
  ⟨fun h => absurd (hi.symm.trans h) (by decide), .inl (counterStepped_of_eq hc hj)⟩

theorem branch_endsAs {i : Instr} (hi : transfersControl i = true) (taken : Bool) (target : Word) (s : State) :
    (Result.ok () (if taken = true then s.jumpTo target else s)).EndsAs i s :=
  transfer_endsAs hi (by split <;> rfl) (by split <;> rfl)

theorem jumpAndLink_endsAs {i : Instr} (hi : transfersControl i = true) (rd : RegIdx) (target : Word) (s : State) :
    (if aligned4 target = false then .raise .instructionAddressMisaligned s
     else .ok () ((s.writeReg rd (s.pc + 4#32)).jumpTo target) : Result Unit).EndsAs i s := by
  split
  · exact accessChange_refl s
  · exact transfer_endsAs hi rfl rfl

theorem returnFromException_endsAs (s : State) : (returnFromException s).EndsAs .mret s := by
  by_cases h : s.priv = .machine
  · cases hp : Priv.ofBits (getMpp (s.csrAt csrMstatus)) with
    | none =>
      have reserved := Priv.eq_two_of_ofBits_eq_none hp
      rw [returnFromException_reserved h reserved]
      exact ⟨rfl, h, reserved, rfl⟩
    | some p =>
      rw [returnFromException_machine h (Priv.bits_of_ofBits hp)]
      exact ⟨fun h => absurd h (by decide), .inl (mretState_counterStepped s p)⟩
  · rw [returnFromException_below h]
    exact accessChange_refl s

theorem ne_csrWriteTarget {i j : CsrIdx} (h : j ≠ i) (h' : j ≠ csrMstatus) : j ≠ csrWriteTarget i := by
  unfold csrWriteTarget
  split <;> assumption

/-- Retiring with the just-loaded flag set changes no CSR (R58). -/
theorem State.csrAt_retire_of_justLoaded {u : State} (h : u.justLoaded = true) (j : CsrIdx) :
    u.retire.csrAt j = u.csrAt j := by
  unfold State.retire State.incrementRetireCounter
  rw [State.setPc_justLoaded, if_pos h]
  rfl

section
variable {csr : CsrIdx} (v : Word) (s : State) (rd : RegIdx) (old : Word)

/-- Writing a half of the counter sets the flag that retiring spends, so every other CSR is as before (R58, D25). -/
theorem csrWrite_half_csrAt (h : csr = csrMinstret ∨ csr = csrMinstreth) {j : CsrIdx} (hj : j ≠ csr) :
    ((s.csrWriteRaw csr v).writeReg rd old).retire.csrAt j = s.csrAt j := by
  have target : csrWriteTarget csr = csr := csrWriteTarget_of_ne (by rcases h with rfl | rfl <;> decide)
  rw [State.csrAt_retire_of_justLoaded (by rcases h with rfl | rfl <;> simp), State.writeReg_csrAt,
    State.csrAt_csrWriteRaw, target, if_neg hj]

/-- Writing any other CSR leaves the counter to its step. -/
theorem csrWrite_counterStepped (h : csr ≠ csrMinstret) (h' : csr ≠ csrMinstreth) :
    CounterStepped s ((s.csrWriteRaw csr v).writeReg rd old).retire := by
  refine counterStepped_of_retireCount ?_ (by simp [beq_eq_false_iff_ne.mpr h, beq_eq_false_iff_ne.mpr h'])
  unfold State.retireCount
  simp only [State.writeReg_csrAt, State.csrAt_csrWriteRaw]
  rw [if_neg (ne_csrWriteTarget h'.symm (by decide)), if_neg (ne_csrWriteTarget h.symm (by decide))]

theorem csrWrite_endsAs {i : Instr} (hi : csrOperand i = some csr) :
    (Result.ok () ((s.csrWriteRaw csr v).writeReg rd old)).EndsAs i s := by
  refine ⟨fun _ => by simp, ?_⟩
  by_cases low : csr = csrMinstret
  · have other := csrWrite_half_csrAt v s rd old (.inl low) (j := csrMinstreth) (by rw [low]; decide)
    exact .inr ⟨.inl ⟨low ▸ hi, other⟩, State.retire_justLoaded _⟩
  by_cases high : csr = csrMinstreth
  · have other := csrWrite_half_csrAt v s rd old (.inr high) (j := csrMinstret) (by rw [high]; decide)
    exact .inr ⟨.inr ⟨high ▸ hi, other⟩, State.retire_justLoaded _⟩
  exact .inl (csrWrite_counterStepped v s rd old low high)

end

theorem csrSwap_endsAs {i : Instr} {csr : CsrIdx} (hi : csrOperand i = some csr) (rd : RegIdx) (src : Word) (s : State) :
    ∃ r, csrSwap rd csr src s = complete s r ∧ r.EndsAs i s := by
  by_cases h : s.priv.level < csrTier csr ∨ csrReadOnly csr = true
  · exact ⟨.raise illegal s, csrSwap_traps h, accessChange_refl s⟩
  · obtain ⟨reaches, writable⟩ := not_or.mp h
    exact ⟨.ok () _, csrSwap_eq (Nat.not_lt.mp reaches) (Bool.eq_false_of_not_eq_true writable),
      csrWrite_endsAs src s rd _ hi⟩

theorem csrModify_endsAs {i : Instr} {csr : CsrIdx} (hi : csrOperand i = some csr) (f : Word → Word) (z : Bool)
    (rd : RegIdx) (s : State) : ∃ r, csrModify f z rd csr s = complete s r ∧ r.EndsAs i s := by
  by_cases h : s.priv.level < csrTier csr ∨ (csrReadOnly csr = true ∧ z = false)
  · exact ⟨.raise illegal s, csrModify_traps h, accessChange_refl s⟩
  · obtain ⟨reaches, writable⟩ := not_or.mp h
    have reaches := Nat.not_lt.mp reaches
    cases z with
    | true => exact ⟨.ok () _, csrModify_read reaches, (writeReg_accesses rd _ s).endsAs i⟩
    | false => exact ⟨.ok () _, csrModify_eq reaches (by simpa using writable), csrWrite_endsAs _ s rd _ hi⟩

/-- Every instruction ends as its handler does, and `EndsAs` says how that is. -/
theorem exec_endsAs (i : Instr) (s : State) : ∃ r, exec i s = complete s r ∧ r.EndsAs i s := by
  cases i with
  | lui rd imm | auipc rd imm => exact ⟨.ok () (s.writeReg rd _), rfl, (writeReg_accesses rd _ s).endsAs _⟩
  | addi rd rs1 imm | slti rd rs1 imm | sltiu rd rs1 imm | xori rd rs1 imm | ori rd rs1 imm | andi rd rs1 imm
  | slli rd rs1 shamt | srli rd rs1 shamt | srai rd rs1 shamt
  | add rd rs1 rs2 | sub rd rs1 rs2 | sll rd rs1 rs2 | slt rd rs1 rs2 | sltu rd rs1 rs2 | xor rd rs1 rs2 | srl rd rs1 rs2
  | sra rd rs1 rs2 | or rd rs1 rs2 | and rd rs1 rs2
  | mul rd rs1 rs2 | mulh rd rs1 rs2 | mulhsu rd rs1 rs2 | mulhu rd rs1 rs2
  | div rd rs1 rs2 | divu rd rs1 rs2 | rem rd rs1 rs2 | remu rd rs1 rs2 =>
    exact ⟨.ok () (s.writeReg rd _), rfl, (writeReg_accesses rd _ s).endsAs _⟩
  | jal rd imm | jalr rd rs1 imm => exact ⟨_, rfl, jumpAndLink_endsAs rfl _ _ s⟩
  | beq rs1 rs2 imm | bne rs1 rs2 imm | blt rs1 rs2 imm | bge rs1 rs2 imm | bltu rs1 rs2 imm | bgeu rs1 rs2 imm =>
    exact ⟨.ok () _, rfl, branch_endsAs rfl _ _ s⟩
  | lb rd rs1 imm | lbu rd rs1 imm => exact ⟨_, rfl, (load_accesses (memReadByte_leaves _ s) _ _).endsAs _⟩
  | lh rd rs1 imm | lhu rd rs1 imm => exact ⟨_, rfl, (load_accesses (memReadHalf_leaves _ s) _ _).endsAs _⟩
  | lw rd rs1 imm => exact ⟨_, rfl, (load_accesses (memReadWord_leaves _ s) _ _).endsAs _⟩
  | sb rs1 rs2 imm => exact ⟨_, rfl, (store_accesses (memWriteByte_leaves _ _ s)).endsAs _⟩
  | sh rs1 rs2 imm => exact ⟨_, rfl, (store_accesses (memWriteHalf_leaves _ _ s)).endsAs _⟩
  | sw rs1 rs2 imm => exact ⟨_, rfl, (store_accesses (memWriteWord_leaves _ _ s)).endsAs _⟩
  | fence rd rs1 fm pred succ => exact ⟨.ok () s, rfl, (writeReg_accesses 0#5 0#32 s).endsAs _⟩
  | sret => exact ⟨.ok () s, rfl, (writeReg_accesses 0#5 0#32 s).endsAs _⟩
  | ecall | ebreak => exact ⟨.raise _ s, rfl, accessChange_refl s⟩
  | mret => exact ⟨_, rfl, returnFromException_endsAs s⟩
  | csrrw rd rs1 csr => exact csrSwap_endsAs rfl _ _ s
  | csrrwi rd uimm csr => exact csrSwap_endsAs rfl _ _ s
  | csrrs rd rs1 csr | csrrc rd rs1 csr => exact csrModify_endsAs rfl _ _ _ s
  | csrrsi rd uimm csr | csrrci rd uimm csr => exact csrModify_endsAs rfl _ _ _ s
  | lrW rd rs1 rs2 aq rl => exact ⟨_, rfl, (loadReserved_accesses rd rs1 s).endsAs _⟩
  | scW rd rs1 rs2 aq rl => exact ⟨_, rfl, (storeConditional_accesses rd rs1 rs2 s).endsAs _⟩
  | amoswapW rd rs1 rs2 aq rl | amoaddW rd rs1 rs2 aq rl | amoxorW rd rs1 rs2 aq rl | amoandW rd rs1 rs2 aq rl
  | amoorW rd rs1 rs2 aq rl | amominW rd rs1 rs2 aq rl | amomaxW rd rs1 rs2 aq rl | amominuW rd rs1 rs2 aq rl
  | amomaxuW rd rs1 rs2 aq rl => exact ⟨_, rfl, (amo_accesses _ _ _ _ s).endsAs _⟩

/-- Settles O10: the three clauses of `EndsAs`, retired, trapped and refused. -/
theorem everyInstructionRetiresOrTraps : Obligations.EveryInstructionRetiresOrTraps := by
  intro i s
  obtain ⟨r, ends, h⟩ := exec_endsAs i s
  cases r with
  | ok v u =>
    obtain ⟨pc, counter⟩ := h
    exact .inl ⟨u.retire, ends, fun hi => by rw [State.retire_pc, pc hi], counter⟩
  | raise e u =>
    obtain ⟨-, -, priv, csr, flag, -⟩ := AccessChange.fields h
    exact .inr (.inl ⟨e, u, ends, AccessChange.readReg h, csr, flag, priv⟩)
  | refuse r =>
    obtain ⟨rfl, machine, reserved, rfl⟩ := h
    exact .inr (.inr ⟨rfl, machine, reserved, ends⟩)

/-! ## The privilege level plays no part -/

/-- The result with its state at another level. -/
def Result.atLevel {α : Type} (p : Priv) : Result α → Result α
  | .ok v u => .ok v (u.setPriv p)
  | .raise e u => .raise e (u.setPriv p)
  | .refuse r => .refuse r

/-- From another level the handler does the same, at that level. -/
def ModeBlind {α : Type} (h : State → Result α) : Prop := ∀ (p : Priv) (s : State), h (s.setPriv p) = (h s).atLevel p

theorem ModeBlind.ok {α : Type} {f : State → State} (hf : ∀ p s, f (s.setPriv p) = (f s).setPriv p) (v : α) :
    ModeBlind fun s => .ok v (f s) := fun p s => congrArg (Result.ok v) (hf p s)

theorem ModeBlind.bind {α β : Type} {h : State → Result α} {f : α → State → Result β} (hh : ModeBlind h)
    (hf : ∀ v, ModeBlind (f v)) : ModeBlind fun s => (h s).bind f := by
  intro p s
  simp only [hh p s]
  cases h s with
  | ok v u => exact hf v p u
  | raise e u => rfl
  | refuse r => rfl

theorem modeBlind_memReadByte (a : Word) : ModeBlind (memReadByte a) := by
  intro p s
  unfold memReadByte
  split <;> rfl

theorem modeBlind_memWriteByte (a : Word) (b : Byte) : ModeBlind (memWriteByte a b) := by
  intro p s
  unfold memWriteByte
  split <;> rfl

theorem modeBlind_memReadHalf (a : Word) : ModeBlind (memReadHalf a) :=
  (modeBlind_memReadByte a).bind fun _ => (modeBlind_memReadByte _).bind fun _ => .ok (fun _ _ => rfl) _

theorem modeBlind_memWriteHalf (a v : Word) : ModeBlind (memWriteHalf a v) :=
  (modeBlind_memWriteByte a _).bind fun _ => modeBlind_memWriteByte _ _

theorem ModeBlind.ite {α : Type} {c : Prop} [Decidable c] {h h' : State → Result α} (hh : ModeBlind h)
    (hh' : ModeBlind h') : ModeBlind fun s => if c then h s else h' s := by
  intro p s
  simp only
  split
  · exact hh p s
  · exact hh' p s

theorem modeBlind_raise {α : Type} (e : Exception) : ModeBlind fun s => (.raise e s : Result α) := fun _ _ => rfl

theorem modeBlind_memReadWord (a : Word) : ModeBlind (memReadWord a) :=
  (modeBlind_raise _).ite <| (modeBlind_memReadByte _).bind fun _ => (modeBlind_memReadByte _).bind fun _ =>
    (modeBlind_memReadByte _).bind fun _ => (modeBlind_memReadByte _).bind fun _ => .ok (fun _ _ => rfl) _

theorem modeBlind_memWriteWord (a w : Word) : ModeBlind (memWriteWord a w) :=
  (modeBlind_raise _).ite <| (modeBlind_memWriteByte _ _).bind fun _ => (modeBlind_memWriteByte _ _).bind fun _ =>
    (modeBlind_memWriteByte _ _).bind fun _ => modeBlind_memWriteByte _ _

/-- A handler whose operands are read from the state it begins in. -/
theorem ModeBlind.of_operand {α κ : Type} {g : κ → State → Result α} {operand : State → κ}
    (same : ∀ p s, operand (s.setPriv p) = operand s) (hg : ∀ k, ModeBlind (g k)) : ModeBlind fun s => g (operand s) s := by
  intro p s
  simp only [same]
  exact hg _ p s

theorem modeBlind_load {α : Type} {access : Word → State → Result α} (ha : ∀ a, ModeBlind (access a)) (extend : α → Word)
    (rd rs1 : RegIdx) (imm : BitVec 12) :
    ModeBlind fun s => (access (loadAddress s rs1 imm) s).bind fun v u => .ok () (u.writeReg rd (extend v)) :=
  .of_operand (operand := (loadAddress · rs1 imm))
    (g := fun a s => (access a s).bind fun v u => .ok () (u.writeReg rd (extend v))) (fun _ _ => rfl) fun a =>
    (ha a).bind fun _ => .ok (fun _ _ => rfl) _

theorem modeBlind_store {access : Word → Word → State → Result Unit} (ha : ∀ a v, ModeBlind (access a v))
    (rs1 rs2 : RegIdx) (imm : BitVec 12) :
    ModeBlind fun s => access (storeAddress s rs1 imm) (s.readReg rs2) s :=
  .of_operand (operand := fun s => (storeAddress s rs1 imm, s.readReg rs2)) (g := fun k => access k.1 k.2)
    (fun _ _ => rfl) fun k => ha k.1 k.2

theorem modeBlind_branch (condition : Word → Word → Bool) (rs1 rs2 : RegIdx) (imm : BitVec 13) :
    ModeBlind fun s => .ok () (if condition (s.readReg rs1) (s.readReg rs2) then s.jumpTo (s.pc + immB imm) else s) :=
  .of_operand (operand := fun s => condition (s.readReg rs1) (s.readReg rs2))
    (g := fun taken s => .ok () (if taken then s.jumpTo (s.pc + immB imm) else s)) (fun _ _ => rfl) fun taken =>
    .ok (fun _ _ => by cases taken <;> rfl) ()

theorem modeBlind_jumpAndLink {target : State → Word} (same : ∀ p s, target (s.setPriv p) = target s) (rd : RegIdx) :
    ModeBlind fun s => if aligned4 (target s) = false then (.raise .instructionAddressMisaligned s : Result Unit)
      else .ok () ((s.writeReg rd (s.pc + 4#32)).jumpTo (target s)) :=
  .of_operand (g := fun a s => if aligned4 a = false then (.raise .instructionAddressMisaligned s : Result Unit)
    else .ok () ((s.writeReg rd (s.pc + 4#32)).jumpTo a)) same fun _ => (modeBlind_raise _).ite (.ok (fun _ _ => rfl) _)

theorem modeBlind_amo (f : Word → Word → Word) (rd rs1 rs2 : RegIdx) :
    ModeBlind fun s => (memReadWord (s.readReg rs1) s).bind fun old s1 =>
      (memWriteWord (s.readReg rs1) (f old (s.readReg rs2)) s1).bind fun _ s2 => .ok () (s2.writeReg rd old) :=
  .of_operand (operand := fun s => (s.readReg rs1, s.readReg rs2)) (g := fun k s => (memReadWord k.1 s).bind fun old s1 =>
      (memWriteWord k.1 (f old k.2) s1).bind fun _ s2 => .ok () (s2.writeReg rd old)) (fun _ _ => rfl) fun _ =>
    (modeBlind_memReadWord _).bind fun _ => (modeBlind_memWriteWord _ _).bind fun _ => .ok (fun _ _ => rfl) _

theorem modeBlind_loadReserved (rd rs1 : RegIdx) : ModeBlind (loadReserved rd rs1) :=
  .of_operand (operand := (·.readReg rs1))
    (g := fun a s => (memReadWord a s).bind fun v u => .ok () ((u.reserve a).writeReg rd v)) (fun _ _ => rfl) fun _ =>
    (modeBlind_memReadWord _).bind fun _ => .ok (fun _ _ => rfl) _

theorem modeBlind_storeConditional (rd rs1 rs2 : RegIdx) : ModeBlind (storeConditional rd rs1 rs2) := by
  intro p s
  unfold storeConditional
  simp only [State.setPriv_isReserved, State.setPriv_readReg, modeBlind_memWriteWord _ _ p s]
  split
  · cases memWriteWord (s.readReg rs1) (s.readReg rs2) s <;> rfl
  · rfl

/-- The instruction has a handler that ignores the level. -/
def HandledBlindly (i : Instr) : Prop := ∃ h : State → Result Unit, (∀ s, exec i s = complete s (h s)) ∧ ModeBlind h

theorem handledBlindly_of_writeReg {i : Instr} {rd : RegIdx} {value : State → Word}
    (ran : ∀ s, exec i s = writeResult rd (value s) s)
    (same : ∀ p s, value (s.setPriv p) = value s) : HandledBlindly i := by
  refine ⟨fun s => .ok () (s.writeReg rd (value s)), ran, .ok (fun p s => ?_) ()⟩
  rw [same]
  rfl

theorem handledBlindly_of_branch {i : Instr} {condition : Word → Word → Bool} {rs1 rs2 : RegIdx} {imm : BitVec 13}
    (ran : ∀ s, exec i s = branch condition rs1 rs2 imm s) : HandledBlindly i :=
  ⟨_, ran, modeBlind_branch condition rs1 rs2 imm⟩

theorem handledBlindly_of_amo {i : Instr} {f : Word → Word → Word} {rd rs1 rs2 : RegIdx}
    (ran : ∀ s, exec i s = amo f rd rs1 rs2 s) : HandledBlindly i := ⟨_, ran, modeBlind_amo f rd rs1 rs2⟩

/-- R314: only ECALL, MRET and the CSR instructions look at the level. -/
theorem handledBlindly_of_not_modeSensitive {i : Instr} (hi : modeSensitive i = false) : HandledBlindly i := by
  cases i with
  | ecall | mret => cases hi
  | csrrw rd rs1 csr | csrrs rd rs1 csr | csrrc rd rs1 csr => cases hi
  | csrrwi rd uimm csr | csrrsi rd uimm csr | csrrci rd uimm csr => cases hi
  | lui rd imm | auipc rd imm => exact handledBlindly_of_writeReg (fun _ => rfl) fun _ _ => rfl
  | addi rd rs1 imm | slti rd rs1 imm | sltiu rd rs1 imm | xori rd rs1 imm | ori rd rs1 imm | andi rd rs1 imm
  | slli rd rs1 shamt | srli rd rs1 shamt | srai rd rs1 shamt
  | add rd rs1 rs2 | sub rd rs1 rs2 | sll rd rs1 rs2 | slt rd rs1 rs2 | sltu rd rs1 rs2 | xor rd rs1 rs2 | srl rd rs1 rs2
  | sra rd rs1 rs2 | or rd rs1 rs2 | and rd rs1 rs2
  | mul rd rs1 rs2 | mulh rd rs1 rs2 | mulhsu rd rs1 rs2 | mulhu rd rs1 rs2
  | div rd rs1 rs2 | divu rd rs1 rs2 | rem rd rs1 rs2 | remu rd rs1 rs2 =>
    exact handledBlindly_of_writeReg (fun _ => rfl) fun _ _ => rfl
  | jal rd imm => exact ⟨_, fun _ => rfl, modeBlind_jumpAndLink (target := (jalTarget · imm)) (fun _ _ => rfl) rd⟩
  | jalr rd rs1 imm =>
    exact ⟨_, fun _ => rfl, modeBlind_jumpAndLink (target := (jalrTarget · rs1 imm)) (fun _ _ => rfl) rd⟩
  | beq rs1 rs2 imm | bne rs1 rs2 imm | blt rs1 rs2 imm | bltu rs1 rs2 imm =>
    exact handledBlindly_of_branch (imm := imm) fun _ => rfl
  | bge rs1 rs2 imm => exact handledBlindly_of_branch (condition := fun a b => !ltS a b) fun _ => rfl
  | bgeu rs1 rs2 imm => exact handledBlindly_of_branch (condition := fun a b => !ltU a b) fun _ => rfl
  | lb rd rs1 imm | lbu rd rs1 imm => exact ⟨_, fun _ => rfl, modeBlind_load modeBlind_memReadByte _ rd rs1 imm⟩
  | lh rd rs1 imm | lhu rd rs1 imm => exact ⟨_, fun _ => rfl, modeBlind_load modeBlind_memReadHalf _ rd rs1 imm⟩
  | lw rd rs1 imm => exact ⟨_, fun _ => rfl, modeBlind_load modeBlind_memReadWord id rd rs1 imm⟩
  | sb rs1 rs2 imm =>
    exact ⟨_, fun _ => rfl, modeBlind_store (fun a v => modeBlind_memWriteByte a (v.byte 0)) rs1 rs2 imm⟩
  | sh rs1 rs2 imm => exact ⟨_, fun _ => rfl, modeBlind_store modeBlind_memWriteHalf rs1 rs2 imm⟩
  | sw rs1 rs2 imm => exact ⟨_, fun _ => rfl, modeBlind_store modeBlind_memWriteWord rs1 rs2 imm⟩
  | fence rd rs1 fm pred succ => exact ⟨_, fun _ => rfl, .ok (f := id) (fun _ _ => rfl) ()⟩
  | sret => exact ⟨_, fun _ => rfl, .ok (f := id) (fun _ _ => rfl) ()⟩
  | ebreak => exact ⟨_, fun _ => rfl, modeBlind_raise .breakpoint⟩
  | lrW rd rs1 rs2 aq rl => exact ⟨_, fun _ => rfl, modeBlind_loadReserved rd rs1⟩
  | scW rd rs1 rs2 aq rl => exact ⟨_, fun _ => rfl, modeBlind_storeConditional rd rs1 rs2⟩
  | amoswapW rd rs1 rs2 aq rl => exact handledBlindly_of_amo (f := fun _ src => src) fun _ => rfl
  | amoaddW rd rs1 rs2 aq rl => exact handledBlindly_of_amo (f := fun old src => old + src) fun _ => rfl
  | amoxorW rd rs1 rs2 aq rl => exact handledBlindly_of_amo (f := fun old src => old ^^^ src) fun _ => rfl
  | amoandW rd rs1 rs2 aq rl => exact handledBlindly_of_amo (f := fun old src => old &&& src) fun _ => rfl
  | amoorW rd rs1 rs2 aq rl => exact handledBlindly_of_amo (f := fun old src => old ||| src) fun _ => rfl
  | amominW rd rs1 rs2 aq rl =>
    exact handledBlindly_of_amo (f := fun old src => if ltS old src then old else src) fun _ => rfl
  | amomaxW rd rs1 rs2 aq rl =>
    exact handledBlindly_of_amo (f := fun old src => if ltS src old then old else src) fun _ => rfl
  | amominuW rd rs1 rs2 aq rl =>
    exact handledBlindly_of_amo (f := fun old src => if ltU old src then old else src) fun _ => rfl
  | amomaxuW rd rs1 rs2 aq rl =>
    exact handledBlindly_of_amo (f := fun old src => if ltU src old then old else src) fun _ => rfl

/-- Only MRET is ever refused. -/
theorem exec_refused {i : Instr} {s : State} {why : Refusal} (h : exec i s = .refused why) : i = .mret := by
  obtain ⟨r, ends, hr⟩ := exec_endsAs i s
  cases r with
  | ok v u => rw [ends] at h; cases h
  | raise e u => rw [ends] at h; cases h
  | refuse r =>
    obtain ⟨mret, -⟩ := hr
    exact mret

/-- Settles O52: the handler ignores the level, so it ends the same way at both; it is not refused, for it is not
MRET's. -/
theorem otherInstructionsIgnoreTheMode : Obligations.OtherInstructionsIgnoreTheMode := by
  intro i s p hi
  obtain ⟨h, ran, blind⟩ := handledBlindly_of_not_modeSensitive hi
  have here := ran s
  have there := ran (s.setPriv p)
  rw [blind p s] at there
  cases hr : h s with
  | ok v u =>
    rw [hr] at here there
    exact .inl ⟨u, here, there⟩
  | raise e u =>
    rw [hr] at here there
    exact .inr ⟨e, u, here, there⟩
  | refuse why =>
    rw [hr] at here
    rw [exec_refused here] at hi
    cases hi

end Sys2Proof.Machine
end

section
/-! One step by what its fetch answers (R8 to R10), and the endless fetch trap of an unset vector (R336). -/

namespace Sys2Proof.Machine

/-- Settles O5: the word fetched is the four bytes at the pc. -/
theorem stepRunsDecodedInstruction : Obligations.StepRunsDecodedInstruction := by
  intro s i rest aligned hb h
  have fetched : fetch s.pc s = .ok (s.mem.wordAt s.pc) s := fetch_backed aligned hb s
  rw [← bytesOfWord_wordOfBytes] at h
  obtain ⟨decoded, -⟩ := decodeWord_of_decode h
  exact step_of_decoded fetched decoded

theorem fetch_withFetchWord (s : State) (w : Word) :
    let placed := s.withFetchWord 32 w.toNat
    fetch placed.pc placed = .ok w placed := by
  intro placed
  obtain ⟨aligned, hb⟩ := fetchPlace_fetchable s
  have there : placed.mem.wordAt (fetchPlace s) = w := by
    rw [State.withFetchWord_mem, Memory.wordAt_load, Nat.mod_eq_of_lt w.isLt, BitVec.ofNat_toNat, BitVec.setWidth_eq]
  rw [State.withFetchWord_pc, fetch_backed aligned hb, there]

/-- Settles O6: the placed word is the one fetched. -/
theorem placedWordRuns : Obligations.PlacedWordRuns :=
  fun s w _ decoded => step_of_decoded (fetch_withFetchWord s w) decoded

/-- Settles O7: each way a fetch fails, and the step that takes its exception. -/
theorem failedFetchTraps : Obligations.FailedFetchTraps :=
  fun s => ⟨fun misaligned => step_of_failed_fetch (fetch_misaligned misaligned s),
    fun aligned unmapped => step_of_failed_fetch (fetch_unmapped aligned unmapped s), rfl, rfl⟩

/-- Four device reads at once. -/
theorem State.deviceRead_four (s : State) (a b c d : Word) :
    (((s.deviceRead a).deviceRead b).deviceRead c).deviceRead d =
      { s with deviceEvents := s.deviceEvents ++ [.read a, .read b, .read c, .read d],
               deviceDraws := s.deviceDraws + 4 } := by
  simp [State.deviceRead]

/-- Settles O9: the fetch is four device reads, and the step goes on from what it answers. -/
theorem fetchFromUartWindow : Obligations.FetchFromUartWindow := by
  intro s aligned uart n w seen
  have fetched : fetch s.pc s = .ok w seen := by rw [fetch_uart aligned uart, State.deviceRead_four]
  exact ⟨fun _ decoded => step_of_decoded fetched decoded, fun _ refused => step_of_undecoded fetched refused⟩

/-! ## The unset vector -/

/-- What the trap of an instruction access fault at address 0 leaves to read (R330). -/
structure FetchFaultReported (t : State) : Prop where
  mcause : t.csrAt csrMcause = 1#32
  mepc   : t.csrAt csrMepc = 0#32
  mtval  : t.csrAt csrMtval = 0#32
  priv   : t.priv = .machine

/-- One turn of the loop: the step traps to address 0 again. -/
theorem step_of_unset_vector {s : State} (pc : s.pc = 0#32) (vector : s.csrAt csrMtvec = 0#32) :
    ∃ t, step s = .next t ∧ t.pc = 0#32 ∧ t.csrAt csrMtvec = 0#32 ∧ FetchFaultReported t ∧
      t.retireCount = s.retireCount ∧ SameRegs s t ∧ SameMemory s t := by
  have entered := takeException_trapEntered .instructionAccessFault s.pc s
  have csrs := entered.csrs
  refine ⟨_, step_of_failed_fetch (fetch_unmapped ?_ ?_ s), ?_, (csrs _ (by decide)).trans vector,
    ⟨entered.mcause, ?_, entered.mtval, entered.priv⟩, ?_, entered.regs, entered.mem⟩
  · rw [pc]; decide
  · rw [pc]; decide
  · rw [entered.pc, vector]; decide
  · rw [entered.mepc, pc]; decide
  · unfold State.retireCount
    rw [csrs csrMinstreth (by decide), csrs csrMinstret (by decide)]

theorem run_succ_of_step {M : Host.Core} {s t : M.State} (h : M.step s = .next t) (n : Nat) :
    M.run (n + 1) s = M.run n t := by
  rw [Host.Core.run, h]

theorem run_of_unset_vector (n : Nat) {s : State} (pc : s.pc = 0#32) (vector : s.csrAt csrMtvec = 0#32) :
    ∃ t, Host.Core.run core n s = .next t ∧ t.pc = 0#32 ∧ t.csrAt csrMtvec = 0#32 ∧
      (0 < n ∨ FetchFaultReported s → FetchFaultReported t) ∧
      t.retireCount = s.retireCount ∧ SameRegs s t ∧ SameMemory s t := by
  induction n generalizing s with
  | zero =>
    exact ⟨s, rfl, pc, vector, fun h => h.resolve_left (Nat.lt_irrefl 0), rfl, fun _ => rfl, fun _ => rfl⟩
  | succ n ih =>
    obtain ⟨u, stepped, pcU, vectorU, reported, countU, regsU, memU⟩ := step_of_unset_vector pc vector
    obtain ⟨t, ran, pcT, vectorT, keeps, countT, regsT, memT⟩ := ih pcU vectorU
    exact ⟨t, (run_succ_of_step (M := core) stepped n).trans ran, pcT, vectorT, fun _ => keeps (.inr reported),
      countT.trans countU, fun r => (regsT r).trans (regsU r), fun b => (memT b).trans (memU b)⟩

/-- Settles O53, by induction on the number of steps: every state of the run is at address 0 with the vector 0. -/
theorem unsetVectorTrapsForEver : Obligations.UnsetVectorTrapsForEver := by
  intro s n pc vector
  obtain ⟨t, ran, pcT, vectorT, reports, count, regs, mem⟩ := run_of_unset_vector n pc vector
  refine ⟨t, ran, pcT, vectorT, fun hn => ?_, count, regs, mem⟩
  obtain ⟨mcause, mepc, mtval, priv⟩ := reports (.inl hn)
  exact ⟨mcause, mepc, mtval, priv⟩

end Sys2Proof.Machine
end

section
/-! The CSR bank (R30 to R58), the CSR instructions (R290 to R297), and reset (R70). -/

namespace Sys2Proof.Machine

/-! ## The transforms -/

/-- Settles O36: each index of R34's table, and the rest as stored. -/
theorem csrReadTransforms : Obligations.CsrReadTransforms := by
  intro s
  refine ⟨s.csrReadRaw_mstatus, rfl, rfl, rfl, rfl, fun i hi => ?_⟩
  simp only [List.mem_cons, List.not_mem_nil, or_false, not_or] at hi
  obtain ⟨-, sstatus, mip, mie, tselect⟩ := hi
  exact s.csrReadRaw_plain (by simp [csrSstatus, csrMip, csrMie, csrTselect, sstatus, mip, mie, tselect])

/-- Settles O37: `sstatus` writes `mstatus`, `mepc` clears two bits, and the flag is set by the counter's halves. -/
theorem csrWriteTransforms : Obligations.CsrWriteTransforms := by
  intro s i v t
  refine ⟨fun j => ?_, ?_, rfl⟩
  · rw [State.csrAt_csrWriteRaw]
    by_cases hi : i = csrSstatus
    · subst hi; rfl
    · rw [csrWriteTarget_of_ne hi, if_neg (show ¬i = 0x100#12 from hi), State.csrWriteValue, if_neg hi]
      rfl
  · simp [t, csrMinstret, csrMinstreth, or_assoc]

/-- A write of `mstatus` is stored as it is and read back as it is (R36, D22). -/
theorem State.csrReadRaw_csrWriteRaw_mstatus (s : State) (v : Word) :
    (s.csrWriteRaw csrMstatus v).csrReadRaw csrMstatus = v := by
  rw [State.csrReadRaw_mstatus, State.csrAt_csrWriteRaw, if_pos (by decide),
    State.csrWriteValue_plain _ (by decide) (by decide)]

/-- Settles O38: the word read back is the one written, with the one field replaced. -/
theorem mstatusFieldsRoundTrip : Obligations.MstatusFieldsRoundTrip := by
  intro s f v t
  rw [s.csrReadRaw_csrWriteRaw_mstatus]
  refine ⟨f.get_set_self _ v, fun g hg => MstatusField.get_set_ne hg _ v, fun j hj => ?_⟩
  rw [State.csrAt_csrWriteRaw, csrWriteTarget_of_ne (by decide), if_neg hj]

theorem masked_view_read (m v mask : Word) : ((m &&& ~~~mask) ||| (v &&& mask)) &&& mask = v &&& mask := by
  apply BitVec.eq_of_getLsbD_eq
  intro i hi
  simp only [BitVec.getLsbD_and, BitVec.getLsbD_or, BitVec.getLsbD_not]
  cases mask.getLsbD i <;> simp

/-- Settles O39: the two halves of the word that a write of `sstatus` stores in `mstatus`. -/
theorem sstatusIsAViewOfMstatus : Obligations.SstatusIsAViewOfMstatus := by
  intro s v t
  have stored : t.csrAt csrMstatus = (s.csrAt csrMstatus &&& ~~~s.params.sstatusMask) ||| (v &&& s.params.sstatusMask) :=
    s.csrAt_csrWriteRaw csrSstatus csrMstatus v
  refine ⟨?_, by rw [stored]; exact masked_view _ _ _⟩
  show t.csrAt csrMstatus &&& s.params.sstatusMask = _
  rw [stored]
  exact masked_view_read _ _ _

/-! ## The retire counter -/

/-- The counter as the number its two words make (R55). -/
theorem State.toNat_retireCount (s : State) :
    s.retireCount.toNat = (s.csrAt csrMinstreth).toNat * 2 ^ 32 + (s.csrAt csrMinstret).toNat := by
  rw [State.retireCount, BitVec.toNat_append, ← Nat.shiftLeft_add_eq_or_of_lt (s.csrAt csrMinstret).isLt,
    Nat.shiftLeft_eq]

/-- Settles O43: the counter's step read as a number, and its frame. -/
theorem retireCounterStep : Obligations.RetireCounterStep := by
  intro s t count
  have counted (u : State) : count u = u.retireCount.toNat := u.toNat_retireCount.symm
  refine ⟨s.incrementRetireCounter_justLoaded, fun loaded => if_pos loaded, fun clear => ?_,
    fun i => s.csrAt_incrementRetireCounter, ?_⟩
  · rw [counted, counted, s.retireCount_incrementRetireCounter, clear]
    exact BitVec.toNat_add _ _
  · show s.incrementRetireCounter = { s with csr := t.csr, justLoaded := t.justLoaded }
    unfold t State.incrementRetireCounter
    split <;> rfl

/-! ## The six instructions -/

/-- A read alone, retired (R290). -/
theorem csrAccessed_read (s : State) (rd : RegIdx) (old : Word) (csr : CsrIdx) :
    CsrAccessed (.next (s.writeReg rd old).retire) s rd old csr none := by
  obtain ⟨t, ran, writes, pc, counter, csrs, mode, resv, mem, device⟩ := writeResult_completes rd old s
  exact ⟨t, ran, pc, writes, mode, resv, mem, device, counter, csrs⟩

/-- A read and a write through the transforms, retired. -/
theorem csrAccessed_write (s : State) (rd : RegIdx) (old v : Word) (csr : CsrIdx) :
    CsrAccessed (.next ((s.csrWriteRaw csr v).writeReg rd old).retire) s rd old csr (some v) := by
  refine ⟨_, rfl, by simp, fun r => by simp [State.readReg_writeReg], ⟨by simp, by simp⟩, by simp, fun b => by simp,
    ⟨by simp, by simp⟩, ?_⟩
  have atTarget : ((s.csrWriteRaw csr v).writeReg rd old).csrAt (csrWriteTarget csr) = s.csrWriteValue csr v := by
    rw [State.writeReg_csrAt, State.csrAt_csrWriteRaw, if_pos rfl]
  dsimp only
  split
  · rename_i half
    have target : csrWriteTarget csr = csr := csrWriteTarget_of_ne (by rcases half with rfl | rfl <;> decide)
    have plain : s.csrWriteValue csr v = v := by
      refine s.csrWriteValue_plain ?_ ?_ v <;> rcases half with rfl | rfl <;> decide
    rw [target, plain] at atTarget
    refine ⟨?_, fun j => csrWrite_half_csrAt v s rd old half, State.retire_justLoaded _⟩
    rw [State.csrAt_retire_of_justLoaded (by rcases half with rfl | rfl <;> simp), atTarget]
  · rename_i other
    obtain ⟨low, high⟩ := not_or.mp other
    refine ⟨csrWrite_counterStepped v s rd old low high, ?_, fun j hj => ?_⟩
    · rw [State.csrAt_retire _ (ne_csrWriteTarget (Ne.symm low) (by decide)).symm
        (ne_csrWriteTarget (Ne.symm high) (by decide)).symm, atTarget]
    · simp only [List.mem_cons, List.not_mem_nil, or_false, not_or] at hj
      obtain ⟨target, notLow, notHigh⟩ := hj
      rw [State.csrAt_retire _ notLow notHigh, State.writeReg_csrAt, State.csrAt_csrWriteRaw, if_neg target]

section
variable {rd : RegIdx} {csr : CsrIdx} {s : State} (reaches : csrTier csr ≤ s.priv.level)
include reaches

theorem csrSwap_accessed (writable : csrReadOnly csr = false) (src : Word) :
    CsrAccessed (csrSwap rd csr src s) s rd (s.csrReadRaw csr) csr (some src) := by
  rw [csrSwap_eq reaches writable]
  exact csrAccessed_write s rd _ src csr

theorem csrModify_accessed (f : Word → Word) {z : Bool} (hz : z = false) (writable : csrReadOnly csr = false) :
    CsrAccessed (csrModify f z rd csr s) s rd (s.csrReadRaw csr) csr (some (f (s.csrReadRaw csr))) := by
  rw [hz, csrModify_eq reaches writable]
  exact csrAccessed_write s rd _ _ csr

theorem csrModify_accessed_read (f : Word → Word) {z : Bool} (hz : z = true) :
    CsrAccessed (csrModify f z rd csr s) s rd (s.csrReadRaw csr) csr none := by
  rw [hz, csrModify_read reaches]
  exact csrAccessed_read s rd _ csr

end

/-- Settles O40: the write forms are `csrSwap`, the set and clear forms `csrModify`, with a write by the field. -/
theorem csrInstructionResults : Obligations.CsrInstructionResults := by
  intro rd rs1 uimm csr s reaches old x z
  have writes {n : Nat} {field : BitVec n} (h : field ≠ 0#n) : (field == 0#n) = false := beq_eq_false_iff_ne.mpr h
  have reads {n : Nat} {field : BitVec n} (h : field = 0#n) : (field == 0#n) = true := beq_iff_eq.mpr h
  exact ⟨fun writable => ⟨csrSwap_accessed reaches writable x, csrSwap_accessed reaches writable z⟩,
    fun field writable => ⟨csrModify_accessed reaches (· ||| x) (writes field) writable,
      csrModify_accessed reaches (· &&& ~~~x) (writes field) writable⟩,
    fun field writable => ⟨csrModify_accessed reaches (· ||| z) (writes field) writable,
      csrModify_accessed reaches (· &&& ~~~z) (writes field) writable⟩,
    fun field => ⟨csrModify_accessed_read reaches (· ||| x) (reads field),
      csrModify_accessed_read reaches (· &&& ~~~x) (reads field)⟩,
    fun field => ⟨csrModify_accessed_read reaches (· ||| z) (reads field),
      csrModify_accessed_read reaches (· &&& ~~~z) (reads field)⟩⟩

theorem csrReadOnly_iff (i : CsrIdx) : csrReadOnly i = true ↔ i.extractLsb' 10 2 = 3#2 := beq_iff_eq

/-- Settles O41: the two gates of `csrSwap` and of `csrModify`. -/
theorem csrInstructionFaults : Obligations.CsrInstructionFaults := by
  intro rd rs1 uimm csr s low ro
  have barred (h : low ∨ ro) : s.priv.level < csrTier csr ∨ csrReadOnly csr = true := h.imp id (csrReadOnly_iff csr).mpr
  have barredField {field : BitVec 5} (h : low ∨ (ro ∧ field ≠ 0#5)) :
      s.priv.level < csrTier csr ∨ (csrReadOnly csr = true ∧ (field == 0#5) = false) :=
    h.imp id fun h => ⟨(csrReadOnly_iff csr).mpr h.1, beq_eq_false_iff_ne.mpr h.2⟩
  exact ⟨fun h => ⟨csrSwap_traps (barred h), csrSwap_traps (barred h)⟩,
    fun h => ⟨csrModify_traps (barredField h), csrModify_traps (barredField h)⟩,
    fun h => ⟨csrModify_traps (barredField h), csrModify_traps (barredField h)⟩⟩

/-! ## Reset -/

theorem State.resetWith_csrAt (pc : Word) (image : Memory) (params : Params) (i : CsrIdx) :
    (State.resetWith pc image params).csrAt i = 0#32 := rfl

theorem State.resetWith_retireCount (pc : Word) (image : Memory) (params : Params) :
    (State.resetWith pc image params).retireCount = 0#64 := by
  rw [State.retireCount, State.resetWith_csrAt, State.resetWith_csrAt]
  rfl

theorem State.resetWith_readReg (pc : Word) (image : Memory) (params : Params) (r : RegIdx) :
    (State.resetWith pc image params).readReg r = 0#32 := by
  simp [State.readReg, State.resetWith]

/-- Settles O58: nothing is listed in memory or the bank, and every value reset gives is 0 or the even RESET_PC. -/
theorem resetMeetsInvariant : Obligations.ResetMeetsInvariant where
  x0 := by decide
  memCanonical := rfl
  memMapped := rfl
  csrCanonical := rfl
  mepc := by decide
  readOnly _ _ := rfl
  sstatus := rfl
  pcEven := by decide
  reservation _ h := by cases h

/-- Settles O59: an empty bank and zero registers, read through the accessors. -/
theorem resetValues : Obligations.ResetValues := by
  intro pc image params s
  have masked (mask : Word) : 0#32 &&& mask = 0#32 := BitVec.zero_and
  exact ⟨rfl, rfl, State.resetWith_readReg pc image params, State.resetWith_csrAt pc image params, rfl, rfl, rfl, rfl,
    masked _, masked _, masked _, rfl, State.resetWith_retireCount pc image params⟩

end Sys2Proof.Machine
end

section
/-! The integer, multiply, divide, FENCE and control results (R160 to R208, R232, R240 to R248): each instruction is a
shared operation of a function, and that function is the one the rule names. -/

namespace Sys2Proof.Machine

/-! ## What the functions are -/

theorem immU_eq (imm : BitVec 20) : immU imm = imm.setWidth 32 <<< 12 := by
  apply BitVec.eq_of_getLsbD_eq
  intro i hi
  simp only [immU, BitVec.getLsbD_append, BitVec.getLsbD_shiftLeft, BitVec.getLsbD_setWidth]
  by_cases low : i < 12
  · simp [low]
  · simp [low, hi, show i - 12 < 32 by omega]

theorem wordOfBool_ltS (a b : Word) : wordOfBool (ltS a b) = if a.toInt < b.toInt then 1#32 else 0#32 := by
  simp [wordOfBool, ltS]

theorem wordOfBool_ltU (a b : Word) : wordOfBool (ltU a b) = if a.toNat < b.toNat then 1#32 else 0#32 := by
  simp [wordOfBool, ltU]

theorem shamtReg_eq (v : Word) : shamtReg v = v.toNat % 32 := by
  simp [shamtReg, BitVec.extractLsb'_toNat]

theorem sub_eq_ofInt (a b : Word) : a - b = BitVec.ofInt 32 (a.toInt - b.toInt) := by
  rw [← BitVec.ofInt_toInt (x := a - b), BitVec.toInt_sub]
  apply BitVec.eq_of_toInt_eq
  simp [BitVec.toInt_ofInt]

theorem mulLow_eq (a b : Word) : mulLow a b = a * b := by
  apply BitVec.eq_of_toNat_eq
  rw [mulLow, BitVec.toNat_ofNat, BitVec.toNat_mul]

theorem ofInt_toNat (a : Word) : BitVec.ofInt 64 (a.toNat : Int) = a.setWidth 64 := by
  apply BitVec.eq_of_toNat_eq
  simp

/-- The three readings of R202 to R204: an operand as an integer is the operand extended. -/
theorem high32_signed (a b : Word) :
    high32 (a.toInt * b.toInt) = (a.signExtend 64 * b.signExtend 64).extractLsb' 32 32 := by
  rw [high32, BitVec.ofInt_mul]; rfl

theorem high32_mixed (a b : Word) :
    high32 (a.toInt * (b.toNat : Int)) = (a.signExtend 64 * b.setWidth 64).extractLsb' 32 32 := by
  rw [high32, BitVec.ofInt_mul, ofInt_toNat]; rfl

theorem high32_unsigned (a b : Word) :
    high32 ((a.toNat : Int) * (b.toNat : Int)) = (a.setWidth 64 * b.setWidth 64).extractLsb' 32 32 := by
  rw [high32, BitVec.ofInt_mul, ofInt_toNat, ofInt_toNat]

theorem divUnsigned_eq (a b : Word) : divUnsigned a b = if b = 0#32 then 0xFFFFFFFF#32 else a / b := by
  rw [divUnsigned, BitVec.udiv_def]

theorem remUnsigned_eq (a b : Word) : remUnsigned a b = if b = 0#32 then a else a % b := by
  rw [remUnsigned, BitVec.umod_def]

/-- The overflow's 0 is what the signed remainder is there (R207, D35). -/
theorem remSigned_eq (a b : Word) : remSigned a b = if b = 0#32 then a else a.srem b := by
  have srem : BitVec.ofInt 32 (a.toInt - b.toInt * a.toInt.tdiv b.toInt) = a.srem b := by
    rw [← Int.tmod_def, ← BitVec.toInt_srem, BitVec.ofInt_toInt]
  rw [remSigned, srem]
  split
  · rfl
  · split
    · rename_i overflow
      obtain ⟨rfl, rfl⟩ := overflow
      decide
    · rfl

/-! ## Integer computation -/

/-- Settles O12: the immediate's bits stand over twelve zeros, which is the shift by 12. -/
theorem upperImmediateResults : Obligations.UpperImmediateResults := by
  intro rd imm s
  rw [← immU_eq]
  exact ⟨writeResult_completes rd _ s, writeResult_completes rd _ s⟩

/-- Settles O13: each is `regImm` or `regShamt` of its function. -/
theorem registerImmediateResults : Obligations.RegisterImmediateResults := by
  intro rd rs1 imm shamt s a b
  have imms (f : Word → Word → Word) := regImm_completes f rd rs1 imm s
  have shifts (f : Word → Nat → Word) := regShamt_completes f rd rs1 shamt s
  exact ⟨imms (· + ·), (imms fun a b => wordOfBool (ltS a b)).of_eq (wordOfBool_ltS a b) rfl,
    (imms fun a b => wordOfBool (ltU a b)).of_eq (wordOfBool_ltU a b) rfl, imms (· ^^^ ·), imms (· ||| ·), imms (· &&& ·),
    shifts (· <<< ·), shifts (· >>> ·), shifts BitVec.sshiftRight⟩

/-- Settles O14: each is `regReg` of its function, the shifts by the low 5 bits, which are the remainder by 32. -/
theorem registerRegisterResults : Obligations.RegisterRegisterResults := by
  intro rd rs1 rs2 s a b
  have results (f : Word → Word → Word) := regReg_completes f rd rs1 rs2 s
  rw [← shamtReg_eq]
  exact ⟨(results (· + ·)).of_eq (BitVec.add_def ..) rfl, (results (· - ·)).of_eq (sub_eq_ofInt a b) rfl,
    results fun a b => a <<< shamtReg b, (results fun a b => wordOfBool (ltS a b)).of_eq (wordOfBool_ltS a b) rfl,
    (results fun a b => wordOfBool (ltU a b)).of_eq (wordOfBool_ltU a b) rfl, results (· ^^^ ·),
    results fun a b => a >>> shamtReg b, results fun a b => a.sshiftRight (shamtReg b), results (· ||| ·),
    results (· &&& ·)⟩

/-- Settles O15: `regReg` of the exact product, narrowed; an operand read as an integer is the operand extended to 64 bits. -/
theorem multiplyResults : Obligations.MultiplyResults := by
  intro rd rs1 rs2 s a b
  have results (f : Word → Word → Word) := regReg_completes f rd rs1 rs2 s
  exact ⟨(results mulLow).of_eq (mulLow_eq a b) rfl,
    (results fun a b => high32 (a.toInt * b.toInt)).of_eq (high32_signed a b) rfl,
    (results fun a b => high32 (a.toInt * (b.toNat : Int))).of_eq (high32_mixed a b) rfl,
    (results fun a b => high32 ((a.toNat : Int) * (b.toNat : Int))).of_eq (high32_unsigned a b) rfl⟩

/-- Settles O16: the words are the encodings, and the results `regReg` of the two quotients and the remainder. -/
theorem divideResults : Obligations.DivideResults := by
  intro rd rs1 rs2 s a b
  have results (f : Word → Word → Word) := regReg_completes f rd rs1 rs2 s
  exact ⟨decodeWord_encode (i := .div rd rs1 rs2) rfl, decodeWord_encode (i := .divu rd rs1 rs2) rfl,
    decodeWord_encode (i := .remu rd rs1 rs2) rfl, results divSigned,
    (results divUnsigned).of_eq (divUnsigned_eq a b) rfl, (results remUnsigned).of_eq (remUnsigned_eq a b) rfl⟩

/-- Settles O17: `regReg` of the remainder, which is the signed remainder of words. -/
theorem remainderResult : Obligations.RemainderResult :=
  fun rd rs1 rs2 s => (regReg_completes remSigned rd rs1 rs2 s).of_eq (remSigned_eq _ _) rfl

/-- An instruction that completes has its result in a destination other than x0. -/
theorem CompletesWith.readReg {o : Host.Outcome State Fault Refusal} {s : State} {rd : RegIdx} {v pc' : Word}
    (h : CompletesWith o s rd v pc') (hrd : rd ≠ 0#5) : ∃ t, o = .next t ∧ t.readReg rd = v := by
  obtain ⟨t, ran, writes, -⟩ := h
  exact ⟨t, ran, (writes rd).trans (if_pos ⟨rfl, hrd⟩)⟩

theorem divSigned_identity (a b : Word) : a = b * divSigned a b + remSigned a b := by
  unfold divSigned remSigned
  split
  · rename_i zero
    rw [zero, BitVec.zero_mul, BitVec.zero_add]
  split
  · rename_i overflow
    obtain ⟨rfl, rfl⟩ := overflow
    decide
  · calc a = BitVec.ofInt 32 (b.toInt * a.toInt.tdiv b.toInt + (a.toInt - b.toInt * a.toInt.tdiv b.toInt)) := by
          rw [add_sub_cancel, BitVec.ofInt_toInt]
      _ = _ := by rw [BitVec.ofInt_add, BitVec.ofInt_mul, BitVec.ofInt_toInt]

theorem divUnsigned_identity (a b : Word) : a = b * divUnsigned a b + remUnsigned a b := by
  unfold divUnsigned remUnsigned
  split
  · rename_i zero
    rw [zero, BitVec.zero_mul, BitVec.zero_add]
  · calc a = BitVec.ofNat 32 (b.toNat * (a.toNat / b.toNat) + a.toNat % b.toNat) := by
          rw [Nat.div_add_mod, BitVec.ofNat_toNat, BitVec.setWidth_eq]
      _ = _ := by rw [BitVec.ofNat_add, BitVec.ofNat_mul, BitVec.ofNat_toNat, BitVec.setWidth_eq]

/-- Settles O18: both instructions complete with the model's functions, and the identity holds of those. -/
theorem divisionIdentity : Obligations.DivisionIdentity := by
  intro q r rs1 rs2 s hq hr
  have quotient (f : Word → Word → Word) := (regReg_completes f q rs1 rs2 s).readReg hq
  have remainder (f : Word → Word → Word) := (regReg_completes f r rs1 rs2 s).readReg hr
  refine ⟨?_, ?_⟩
  · obtain ⟨tq, ranQ, isQ⟩ := quotient divSigned
    obtain ⟨tr, ranR, isR⟩ := remainder remSigned
    exact ⟨tq, tr, ranQ, ranR, by rw [isQ, isR]; exact divSigned_identity _ _⟩
  · obtain ⟨tq, ranQ, isQ⟩ := quotient divUnsigned
    obtain ⟨tr, ranR, isR⟩ := remainder remUnsigned
    exact ⟨tq, tr, ranQ, ranR, by rw [isQ, isR]; exact divUnsigned_identity _ _⟩

/-! ## FENCE, SRET and control transfer -/

/-- Settles O27: both handlers change nothing, and retire. -/
theorem fenceAndSretOnlyRetire : Obligations.FenceAndSretOnlyRetire :=
  fun _ _ _ _ _ s => ⟨noop_completes s, noop_completes s⟩

theorem not_ltS_eq (a b : Word) : (!ltS a b) = decide (b.toInt ≤ a.toInt) := by
  simp [ltS, ← decide_not]

theorem not_ltU_eq (a b : Word) : (!ltU a b) = decide (b.toNat ≤ a.toNat) := by
  simp [ltU, ← decide_not]

/-- Settles O28: each is `branch` of its condition. -/
theorem branchResults : Obligations.BranchResults := by
  intro rs1 rs2 imm s a b target
  have goes (condition : Word → Word → Bool) (p : Prop) [Decidable p] (h : condition a b = decide p) :
      CompletesWith (branch condition rs1 rs2 imm s) s 0#5 0#32 (if p then target else s.pc + 4#32) := by
    refine (branch_completes condition rs1 rs2 imm s).of_eq rfl ?_
    show (if condition a b = true then target else _) = _
    simp only [h, decide_eq_true_eq]
  exact ⟨goes (· == ·) _ rfl, goes (· != ·) _ decide_not.symm, goes ltS _ rfl,
    goes (fun a b => !ltS a b) _ (not_ltS_eq a b), goes ltU _ rfl, goes (fun a b => !ltU a b) _ (not_ltU_eq a b)⟩

theorem aligned4_of_even {a : Word} (even : a.getLsbD 0 = false) : aligned4 a = !a.getLsbD 1 := by
  rw [Bool.eq_iff_iff, aligned4_eq_true_iff, Bool.not_eq_true']
  refine ⟨fun h => by simpa using congrArg (·.getLsbD 1) h, fun h => ?_⟩
  apply BitVec.eq_of_getLsbD_eq
  intro i hi
  interval_cases i
  · simpa using even
  · simpa using h

/-- Settles O29: both are `jumpAndLink`; JALR's target is even, so bit 1 decides its alignment. -/
theorem jumpResults : Obligations.JumpResults := by
  intro rd rs1 imm off s jal jalr
  have even : jalr.getLsbD 0 = false := by simp [jalr]
  refine ⟨fun aligned => jumpAndLink_completes ((aligned4_eq_true_iff jal).mpr aligned) rd s,
    fun misaligned => jumpAndLink_traps ?_ rd s, fun low => jumpAndLink_completes ?_ rd s,
    fun high => jumpAndLink_traps ?_ rd s⟩
  · exact Bool.eq_false_of_not_eq_true fun h => misaligned ((aligned4_eq_true_iff jal).mp h)
  · exact (aligned4_of_even even).trans (by rw [low]; rfl)
  · exact (aligned4_of_even even).trans (by rw [high]; rfl)

end Sys2Proof.Machine
end

section
/-! Loads and stores (R220 to R229), by region: memory, faults, and the UART window (R88). -/

namespace Sys2Proof.Machine

/-! ## Memory -/

/-- Settles O19: each load is `load` of an access that memory answers. -/
theorem loadsFromMemory : Obligations.LoadsFromMemory := by
  intro rd rs1 imm s a
  have byte (extend : Byte → Word) (hb : backed a) := load_completes (extend := extend) (rd := rd) (memReadByte_backed hb s)
  have half (extend : BitVec 16 → Word) (lo : backed a) (hi : backed (a + 1#32)) :=
    load_completes (extend := extend) (rd := rd) (memReadHalf_backed lo hi s)
  exact ⟨byte sext8, byte zext8, half sext16, half zext16,
    fun hb aligned => load_completes (extend := id) (memReadWord_backed aligned hb s)⟩

/-- Settles O20: each load is `load` of an access that raises, from the state as it was. -/
theorem faultingLoads : Obligations.FaultingLoads := by
  intro rd rs1 imm s a
  have byte (extend : Byte → Word) (h : regionOf a = .unmapped) :
      Traps (load memReadByte extend rd rs1 imm s) s .loadAccessFault := load_traps (memReadByte_unmapped h s)
  have half (extend : BitVec 16 → Word) (h : memReadHalf a s = .raise .loadAccessFault s) :
      Traps (load memReadHalf extend rd rs1 imm s) s .loadAccessFault := load_traps h
  refine ⟨fun h => ⟨byte sext8 h, byte zext8 h, half sext16 (memReadHalf_unmapped h s),
      half zext16 (memReadHalf_unmapped h s)⟩, fun lo hi => ?_,
    fun misaligned => load_traps (memReadWord_misaligned misaligned s),
    fun aligned h => load_traps (memReadWord_unmapped aligned h s)⟩
  have raised := memReadHalf_second_unmapped lo hi s
  exact ⟨half sext16 raised, half zext16 raised⟩

/-- A store to DRAM retires, and what it stored is what its access stored. -/
theorem store_dram {access : Word → Word → State → Result Unit} {rs1 rs2 : RegIdx} {imm : BitVec 12} {s u : State}
    {bs : List Byte} (h : access (storeAddress s rs1 imm) (s.readReg rs2) s = .ok () u) (change : WriteChange s u)
    (stored : StoresBytes (storeAddress s rs1 imm) bs s u) (device : SameDevice s u) :
    ∃ t, Retires (store access rs1 rs2 imm s) s t (s.pc + 4#32) ∧ StoresBytes (storeAddress s rs1 imm) bs s t ∧
      SameRegs s t ∧ SameDevice s t := by
  obtain ⟨retires, regs⟩ := store_retires h change
  refine ⟨u.retire, retires, stored.of_eq u.retire_mem u.retire_reservation, regs, ?_⟩
  simpa [SameDevice] using device

/-- Settles O21: one, two or four DRAM bytes written in ascending order. -/
theorem storesToDram : Obligations.StoresToDram := by
  intro rs1 rs2 imm s a v
  refine ⟨fun dram => ?_, fun lo hi => ?_, fun dram aligned => ?_⟩
  · exact store_dram (access := fun a v => memWriteByte a (v.byte 0)) (memWriteByte_dram dram (v.byte 0) s)
      (writeChange_dramWrite dram _ s) (storesBytes_one ..) ⟨rfl, rfl⟩
  · have written := memWriteHalf_dram lo hi v s
    exact store_dram (access := memWriteHalf) written ((memWriteHalf_leaves a v s).ok written) (storesBytes_two ..)
      ⟨rfl, rfl⟩
  · have written := memWriteWord_dram aligned dram v s
    exact store_dram (access := memWriteWord) written ((memWriteWord_leaves a v s).ok written) (storesBytes_four ..)
      ⟨rfl, rfl⟩

/-- Settles O22: each store is `store` of an access that raises before it has written. -/
theorem faultingStores : Obligations.FaultingStores := by
  intro rs1 rs2 imm s a
  exact ⟨fun h => ⟨store_traps (access := fun a v => memWriteByte a (v.byte 0)) (memWriteByte_fault h _ s),
      store_traps (memWriteHalf_fault h _ s)⟩,
    fun misaligned => store_traps (memWriteWord_misaligned misaligned _ s),
    fun aligned h => store_traps (memWriteWord_fault aligned h _ s)⟩

/-- Settles O23: the first byte's write completes, the second's faults from the state it left. -/
theorem halfwordStoreLeavesFirstByte : Obligations.HalfwordStoreLeavesFirstByte := by
  intro rs1 rs2 imm s a b unmapped
  have leaves {u : State} (first : memWriteByte a b s = .ok () u) :
      exec (.sh rs1 rs2 imm) s = .next (takeException .storeAmoAccessFault s.pc u) :=
    store_traps (memWriteHalf_second_fault first rfl (.inr unmapped))
  exact ⟨fun dram => ⟨_, leaves (memWriteByte_dram dram b s), rfl, storesBytes_one a b s⟩,
    fun uart => leaves (memWriteByte_uart uart b s), rfl⟩

/-! ## The UART window -/

/-- A load from the window: the device's part of the state is what the access left, the rest as it was. -/
theorem load_uart {α : Type} {access : Word → State → Result α} (extend : α → Word) (rd : RegIdx) {rs1 : RegIdx}
    {imm : BitVec 12} {s u : State} {v : α} (h : access (loadAddress s rs1 imm) s = .ok v u) (change : ReadChange s u) :
    ∃ t, Retires (load access extend rd rs1 imm s) s t (s.pc + 4#32) ∧ WritesReg rd (extend v) s t ∧ SameMemory s t ∧
      t.reservation = s.reservation ∧ t.deviceDraws = u.deviceDraws ∧ t.deviceEvents = u.deviceEvents := by
  obtain ⟨-, -, -, -, -, resv, mem, -⟩ := change.fields
  obtain ⟨retires, writes⟩ := load_retires (extend := extend) (rd := rd) h change
  exact ⟨_, retires, writes, fun b => by simp [mem], by simp [resv], by simp, by simp⟩

/-- A store to the window: output events, and nothing else. -/
theorem store_uart {access : Word → Word → State → Result Unit} {rs1 rs2 : RegIdx} {imm : BitVec 12} {s u : State}
    (h : access (storeAddress s rs1 imm) (s.readReg rs2) s = .ok () u)
    (change : u = { s with deviceEvents := u.deviceEvents }) :
    ∃ t, Retires (store access rs1 rs2 imm s) s t (s.pc + 4#32) ∧ SameRegs s t ∧ SameMemory s t ∧
      t.reservation = s.reservation ∧ t.deviceDraws = s.deviceDraws ∧ t.deviceEvents = u.deviceEvents := by
  have same : u.mem = s.mem ∧ u.reservation = s.reservation ∧ u.deviceDraws = s.deviceDraws := by
    rw [change]; exact ⟨rfl, rfl, rfl⟩
  obtain ⟨mem, resv, draws⟩ := same
  have access : AccessChange s u := by unfold AccessChange; rw [change]
  obtain ⟨retires, regs⟩ := retires_of_access_only access h
  exact ⟨_, retires, regs, fun b => by simp [mem], by simp [resv], by simp [draws], by simp⟩

/-- Settles O24: one device access for a byte, four in ascending order for a word. -/
theorem uartAccesses : Obligations.UartAccesses := by
  intro rd rs1 rs2 imm s a v n uart
  have readByte := memReadByte_uart uart s
  have byte (extend : Byte → Word) := load_uart extend rd readByte rfl
  refine ⟨?_, ?_, ?_, fun aligned => ⟨?_, ?_⟩⟩
  · obtain ⟨t, retires, writes, mem, resv, draws, events⟩ := byte sext8
    exact ⟨t, retires, writes, mem, resv, events, draws⟩
  · obtain ⟨t, retires, writes, mem, resv, draws, events⟩ := byte zext8
    exact ⟨t, retires, writes, mem, resv, events, draws⟩
  · obtain ⟨t, retires, regs, mem, resv, draws, events⟩ :=
      store_uart (access := fun a v => memWriteByte a (v.byte 0)) (memWriteByte_uart uart (v.byte 0) s) rfl
    exact ⟨t, retires, regs, mem, resv, events, draws⟩
  · obtain ⟨t, retires, writes, mem, resv, draws, events⟩ := load_uart id rd (memReadWord_uart aligned uart s) rfl
    exact ⟨t, retires, writes, mem, resv, draws, by simpa using events⟩
  · obtain ⟨t, retires, regs, mem, resv, draws, events⟩ := store_uart (memWriteWord_uart aligned uart v s) rfl
    exact ⟨t, retires, regs, mem, resv, draws, by simpa [Word.byte] using events⟩

/-- Settles O25: two device accesses, or one and then the fault of the second byte. -/
theorem uartHalfwords : Obligations.UartHalfwords := by
  intro rd rs1 rs2 imm s a v n h seen uart
  refine ⟨fun next => ?_, fun unmapped => ?_⟩
  · have half (extend : BitVec 16 → Word) := load_uart extend rd (memReadHalf_uart uart next s) rfl
    refine ⟨?_, ?_, ?_⟩
    · obtain ⟨t, retires, writes, mem, resv, draws, events⟩ := half sext16
      exact ⟨t, retires, writes, mem, resv, draws, by simpa using events⟩
    · obtain ⟨t, retires, writes, mem, resv, draws, events⟩ := half zext16
      exact ⟨t, retires, writes, mem, resv, draws, by simpa using events⟩
    · obtain ⟨t, retires, regs, mem, resv, draws, events⟩ := store_uart (memWriteHalf_uart uart next v s) rfl
      exact ⟨t, retires, regs, mem, resv, draws, by simpa [Word.byte] using events⟩
  · have raised := memReadHalf_uart_edge uart unmapped s
    exact ⟨load_traps (extend := sext16) raised, load_traps (extend := zext16) raised⟩

end Sys2Proof.Machine
end

section
/-! LR.W, SC.W and the AMOs (R98, R260 to R272), by region. -/

namespace Sys2Proof.Machine

/-! ## LR.W and SC.W -/

/-- An LR.W whose read completes: the word in `x[rd]`, the reservation made, the rest as the read left it. -/
theorem loadReserved_retires {rd rs1 : RegIdx} {s u : State} {w : Word} (h : memReadWord (s.readReg rs1) s = .ok w u) :
    ∃ t, Retires (complete s (loadReserved rd rs1 s)) s t (s.pc + 4#32) ∧ WritesReg rd w s t ∧
      t.reservation = some (s.readReg rs1) ∧ SameMemory s t ∧ t.deviceDraws = u.deviceDraws ∧
      t.deviceEvents = u.deviceEvents := by
  have read : ReadChange s u := (memReadWord_leaves _ s).ok h
  obtain ⟨-, -, -, -, -, -, mem, -⟩ := read.fields
  obtain ⟨retires, writes⟩ := retires_of_access (read.access.trans (u := u.reserve (s.readReg rs1)) rfl)
    (loadReserved_ok (rd := rd) h)
  exact ⟨_, retires, writes, by simp, fun b => by simp [mem], by simp, by simp⟩

/-- Settles O30: an LR.W whose read memory answers. -/
theorem loadReservedResult : Obligations.LoadReservedResult := by
  intro rd rs1 rs2 aq rl s a aligned hb
  obtain ⟨t, retires, writes, resv, mem, draws, events⟩ := loadReserved_retires (rd := rd) (memReadWord_backed aligned hb s)
  exact ⟨t, retires, writes, resv, mem, events, draws⟩

/-- A successful SC.W whose write completes. -/
theorem storeConditional_retires {rd rs1 rs2 : RegIdx} {s u : State} (h : s.reservation = some (s.readReg rs1))
    (hw : memWriteWord (s.readReg rs1) (s.readReg rs2) s = .ok () u) :
    ∃ t, Retires (complete s (storeConditional rd rs1 rs2 s)) s t (s.pc + 4#32) ∧ WritesReg rd 0#32 s t ∧
      t.mem = u.mem ∧ t.reservation = none ∧ t.deviceDraws = u.deviceDraws ∧ t.deviceEvents = u.deviceEvents := by
  have write : WriteChange s u := (memWriteWord_leaves _ _ s).ok hw
  obtain ⟨retires, writes⟩ := retires_of_access (write.access.trans (u := u.invalidateReservation) rfl)
    (storeConditional_ok (rd := rd) h hw)
  exact ⟨_, retires, writes, by simp, by simp, by simp, by simp⟩

/-- Settles O31: the reservation's test, then the write by region. -/
theorem storeConditionalResult : Obligations.StoreConditionalResult := by
  intro rd rs1 rs2 aq rl s a v
  have raises {e : Exception} (reserved : s.reservation = some a) (h : memWriteWord a v s = .raise e s) :
      exec (.scW rd rs1 rs2 aq rl) s = .next (takeException e s.pc { s with reservation := none }) :=
    congrArg (complete s) (storeConditional_raise (rd := rd) reserved h)
  refine ⟨fun reserved aligned dram => ?_, fun reserved aligned uart => ?_,
    fun reserved aligned fault => raises reserved (memWriteWord_fault aligned fault v s),
    fun reserved misaligned => raises reserved (memWriteWord_misaligned misaligned v s), fun other => ?_⟩
  · obtain ⟨t, retires, writes, mem, resv, draws, events⟩ :=
      storeConditional_retires (rd := rd) reserved (memWriteWord_dram aligned dram v s)
    refine ⟨t, retires, writes, (storesBytes_four ..).of_eq mem (resv.trans ?_), resv, events, draws⟩
    simp [show s.reservation = some a from reserved]
  · obtain ⟨t, retires, writes, mem, resv, draws, events⟩ :=
      storeConditional_retires (rd := rd) reserved (memWriteWord_uart aligned uart v s)
    exact ⟨t, retires, writes, fun b => by rw [mem]; rfl, resv, draws, by simpa [Word.byte] using events⟩
  · obtain ⟨retires, writes⟩ := retires_of_access (s := s) (u := s.invalidateReservation) rfl
      (storeConditional_fails (rd := rd) (rs2 := rs2) other)
    exact ⟨_, retires, writes, fun b => by simp, by simp, by simp [SameDevice]⟩

theorem WritesReg.read_self {rd : RegIdx} {v : Word} {s t : State} (h : WritesReg rd v s t) (hrd : rd ≠ 0#5) :
    t.readReg rd = v := (h rd).trans (if_pos ⟨rfl, hrd⟩)

theorem WritesReg.read_ne {rd r : RegIdx} {v : Word} {s t : State} (h : WritesReg rd v s t) (hr : r ≠ rd) :
    t.readReg r = s.readReg r := (h r).trans (if_neg fun both => hr both.1)

/-- Settles O32: LR.W reserves the address that SC.W then finds reserved, and the first SC.W leaves none. -/
theorem loadReservedStoreConditionalPair : Obligations.LoadReservedStoreConditionalPair := by
  intro x1 x2 x3 p v q1 q2 q3 aq rl s s1 s2 hx2 hx3 hx1p hx2p aligned dram ran1 ran2
  obtain ⟨t1, ⟨next1, -⟩, writes1, resv1, -⟩ := loadReservedResult x1 p q1 aq rl s aligned (.inr dram)
  cases next1.symm.trans ran1
  have address1 : s1.readReg p = s.readReg p := writes1.read_ne hx1p.symm
  obtain ⟨succeeds, -⟩ := storeConditionalResult x2 p v aq rl s1
  rw [address1] at succeeds
  obtain ⟨t2, ⟨next2, -⟩, writes2, stored, resv2, -⟩ := succeeds resv1 aligned dram
  cases next2.symm.trans ran2
  obtain ⟨-, -, -, -, fails⟩ := storeConditionalResult x3 p q2 aq rl s2
  obtain ⟨t3, ⟨next3, -⟩, writes3, mem3, -⟩ := fails (by rw [resv2]; exact nofun)
  exact ⟨writes2.read_self hx2, StoresBytes.wordAt_word (w := s1.readReg v) stored,
    t3, next3, writes3.read_self hx3, mem3, writes3.read_ne⟩

/-! ## The AMOs -/

/-- The nine AMOs, with the functions of R264 to R272. -/
def amoTable : List ((RegIdx → RegIdx → RegIdx → Bool → Bool → Instr) × (Word → Word → Word)) :=
  [(.amoswapW, fun _ src => src), (.amoaddW, fun old src => old + src), (.amoxorW, fun old src => old ^^^ src),
    (.amoandW, fun old src => old &&& src), (.amoorW, fun old src => old ||| src),
    (.amominW, fun old src => if old.toInt < src.toInt then old else src),
    (.amomaxW, fun old src => if old.toInt > src.toInt then old else src),
    (.amominuW, fun old src => if old.toNat < src.toNat then old else src),
    (.amomaxuW, fun old src => if old.toNat > src.toNat then old else src)]

theorem ite_ltS (a b x y : Word) : (if ltS a b = true then x else y) = if a.toInt < b.toInt then x else y := by
  simp [ltS]

theorem ite_ltU (a b x y : Word) : (if ltU a b = true then x else y) = if a.toNat < b.toNat then x else y := by
  simp [ltU]

/-- Each is the shared operation of its function. -/
theorem exec_of_mem_amoTable : ∀ row ∈ amoTable, ∀ (rd rs1 rs2 : RegIdx) (aq rl : Bool) (s : State),
    exec (row.1 rd rs1 rs2 aq rl) s = amo row.2 rd rs1 rs2 s := by
  simp only [amoTable, List.forall_mem_cons, List.not_mem_nil, false_implies, implies_true, and_true, gt_iff_lt,
    ← ite_ltS, ← ite_ltU]
  and_intros <;> intros <;> rfl

/-- Settles O33: each AMO is the shared operation of its function, on a DRAM word. -/
theorem amoResults : Obligations.AmoResults := by
  intro op f h rd rs1 rs2 aq rl s a v aligned dram
  rw [exec_of_mem_amoTable (op, f) h]
  exact amo_retires aligned dram rfl

/-- An AMO on a word of the UART window: four reads, and then four writes. -/
theorem amo_uart (f : Word → Word → Word) (rd rs1 rs2 : RegIdx) (s : State) :
    let a := s.readReg rs1
    let n := s.deviceDraws
    let old := wordOfBytes (Config.deviceRead n a) (Config.deviceRead (n + 1) (a + 1#32))
      (Config.deviceRead (n + 2) (a + 2#32)) (Config.deviceRead (n + 3) (a + 3#32))
    let v := f old (s.readReg rs2)
    aligned4 a = true → regionOf a = .uart →
    ∃ t, Retires (amo f rd rs1 rs2 s) s t (s.pc + 4#32) ∧ WritesReg rd old s t ∧ SameMemory s t ∧
      t.reservation = s.reservation ∧ t.deviceDraws = n + 4 ∧
      t.deviceEvents = s.deviceEvents ++ [.read a, .read (a + 1#32), .read (a + 2#32), .read (a + 3#32)] ++
        [.write a (v.extractLsb' 0 8), .write (a + 1#32) (v.extractLsb' 8 8), .write (a + 2#32) (v.extractLsb' 16 8),
          .write (a + 3#32) (v.extractLsb' 24 8)] := by
  intro a n old v aligned uart
  obtain ⟨retires, writes⟩ := amo_eq (f := f) (rd := rd) (rs2 := rs2) (memReadWord_uart aligned uart s)
    (memWriteWord_uart aligned uart v _)
  exact ⟨_, retires, writes, fun b => by simp, by simp, by simp [n], by simp [Word.byte, a]⟩

/-- Settles O34: LR.W's read and each AMO's read and write, answered by the device. -/
theorem uartAtomics : Obligations.UartAtomics := by
  intro rd rs1 rs2 aq rl s a src n old reads writesBack aligned uart
  have each : ∀ row ∈ amoTable, writesBack (exec (row.1 rd rs1 rs2 aq rl) s) (row.2 old src) := fun row h => by
    rw [exec_of_mem_amoTable row h]
    exact amo_uart row.2 rd rs1 rs2 s aligned uart
  simp only [amoTable, List.forall_mem_cons, List.not_mem_nil, false_implies, implies_true, and_true] at each
  obtain ⟨t, retires, writes, resv, mem, draws, events⟩ :=
    loadReserved_retires (rd := rd) (memReadWord_uart aligned uart s)
  exact ⟨⟨t, retires, writes, mem, resv, draws, by simpa using events⟩, each⟩

/-- Settles O35: LR.W by its read alone, each AMO by its read and, on ROM, its write. -/
theorem faultingAtomics : Obligations.FaultingAtomics := by
  intro op h rd rs1 rs2 aq rl s a
  have h : op ∈ Instr.lrW :: amoTable.map Prod.fst := h
  obtain rfl | h := List.mem_cons.mp h
  · exact ⟨fun misaligned => congrArg (complete s) (loadReserved_raise (memReadWord_misaligned misaligned s)),
      fun aligned unmapped => congrArg (complete s) (loadReserved_raise (memReadWord_unmapped aligned unmapped s)),
      fun notLr => absurd rfl notLr⟩
  · obtain ⟨row, hrow, rfl⟩ := List.mem_map.mp h
    rw [exec_of_mem_amoTable row hrow]
    exact ⟨amo_traps_misaligned, amo_traps_unmapped, fun _ => amo_traps_rom⟩

end Sys2Proof.Machine
end
